-- ==== Sys2Proof/Word.lean ====
section
/-! DEFINITION. The widths the spec fixes (00_scope.md R7; 30_encoding.md R80) and the shape of an indexed array. -/

namespace Sys2Proof

/-- A byte address of the host's memory or a pc: `ADDR_BITS = 32` (00_scope.md R7, 20_memory.md R50). -/
abbrev Addr := BitVec 32

/-- One command word, `cmd[67:0]` (30_encoding.md R80). -/
abbrev CmdWord := BitVec 68

/-- The value of a counter or of a response: `CTR_BITS = 64` (00_scope.md R7, 30_encoding.md R82). -/
abbrev Count := BitVec 64

/-- An array of the block (10_state.md R26 to R30) as the list of its entries that differ from the value an
unlisted index reads as, each with its index. How it is read and written is in Machine/Ops.lean. -/
abbrev Table (α : Type) := List (Nat × α)

end Sys2Proof
end

