-- ==== Sys2Proof/Syntax.lean ====
section
/-! DEFINITION. The ten operations of the block (00_scope.md R10; 30_encoding.md R84) and the operand types. -/

namespace Sys2Proof

/-- A register slot: "not used", or a register index of the host's processor (10_state.md R23). -/
inductive RegSlot where
  | none
  | reg (i : BitVec 5)
  deriving DecidableEq, Repr, Inhabited

/-- The kind of an instruction context (10_state.md R24). No RECORD may carry `uninitialized`
(30_encoding.md R87): WellFormed refuses it. -/
inductive Kind where
  | uninitialized
  | memoryRead
  | normal
  deriving DecidableEq, Repr, Inhabited

/-- The fourteen counters, in the order of their selectors 0 to 13 (10_state.md R31, 30_encoding.md R88). -/
inductive Counter where
  | haz
  | dmiss
  | imiss
  | unal
  | dacc
  | iacc
  | atHit
  | atMiss
  | ntHit
  | ntMiss
  | b1Hit
  | b1Miss
  | b2Hit
  | b2Miss
  deriving DecidableEq, Repr, Inhabited

/-- One command (30_encoding.md R84), one constructor per row of the opcode table. -/
inductive Instr where
  | reset
  | record (dest src1 src2 : RegSlot) (kind : Kind)
  | check
  | dread (addr : Addr)
  | dwrite (addr : Addr)
  | ifetch (addr : Addr)
  | btaken (pc tgt : Addr)
  | bntaken (pc tgt : Addr)
  | rdctr (sel : Counter)
  | rdstat
  deriving DecidableEq, Repr, Inhabited

end Sys2Proof
end

