-- ==== Sys2Proof/WellFormed.lean ====
section
/-! DEFINITION. Which terms of Instr are commands. The operand types already exclude a register index above 31
(30_encoding.md R86) and a selector above 13 (R88); what is left is the kind of RECORD (R87). -/

namespace Sys2Proof

/-- A kind that RECORD may carry: `MemoryRead` or `Normal` (30_encoding.md R87). -/
def Kind.recordable : Kind → Bool
  | .uninitialized => false
  | .memoryRead => true
  | .normal => true

/-- The command is one that a word encodes (30_encoding.md R85 to R88). -/
def Instr.wellFormed : Instr → Bool
  | .record _ _ _ kind => kind.recordable
  | .reset => true
  | .check => true
  | .dread _ => true
  | .dwrite _ => true
  | .ifetch _ => true
  | .btaken _ _ => true
  | .bntaken _ _ => true
  | .rdctr _ => true
  | .rdstat => true

end Sys2Proof
end

