-- ==== Sys2Proof/Decode.lean ====
section
/-! DEFINITION. The command encoding: the decoder of 30_encoding.md R92 and, after it, the encoder, both written from
the formats of R83 and the opcode map of R84. -/

namespace Sys2Proof

/-- What decoding gives (30_encoding.md R92). -/
inductive Decoded where
  /-- A well-formed command with its operands. -/
  | cmd (i : Instr)
  /-- A reserved opcode (R90). -/
  | illegalOpcode
  /-- A listed opcode with a malformed operand field (R85 to R88). -/
  | illegalOperand
  deriving DecidableEq, Repr

/-- `op = cmd[67:64]` (R80). -/
def opField (w : CmdWord) : BitVec 4 := w.extractLsb' 64 4

/-- `A = cmd[63:32]` (R80). -/
def fieldA (w : CmdWord) : BitVec 32 := w.extractLsb' 32 32

/-- `B = cmd[31:0]` (R80). -/
def fieldB (w : CmdWord) : BitVec 32 := w.extractLsb' 0 32

/-- A register slot field `used, index[4:0]` (R86): `0b000000` is `none`, `0b1iiiii` is `reg(i)`, the rest is
reserved. -/
def decodeSlot (v : BitVec 6) : Option RegSlot :=
  if v.extractLsb' 5 1 = 1#1 then some (.reg (v.extractLsb' 0 5))
  else if v = 0#6 then some .none
  else none

/-- The kind field of RECORD (R87). -/
def decodeKind (v : BitVec 2) : Option Kind :=
  if v = 0b01#2 then some .memoryRead
  else if v = 0b10#2 then some .normal
  else none

/-- The selector column of 10_state.md R31 (30_encoding.md R88). -/
def Counter.code : Counter → BitVec 4
  | .haz => 0#4
  | .dmiss => 1#4
  | .imiss => 2#4
  | .unal => 3#4
  | .dacc => 4#4
  | .iacc => 5#4
  | .atHit => 6#4
  | .atMiss => 7#4
  | .ntHit => 8#4
  | .ntMiss => 9#4
  | .b1Hit => 10#4
  | .b1Miss => 11#4
  | .b2Hit => 12#4
  | .b2Miss => 13#4

/-- The fourteen counters in selector order. -/
def Counter.all : List Counter :=
  [.haz, .dmiss, .imiss, .unal, .dacc, .iacc, .atHit, .atMiss, .ntHit, .ntMiss, .b1Hit, .b1Miss, .b2Hit, .b2Miss]

/-- The counter a selector names; 14 and 15 name none (R88). -/
def decodeSel (v : BitVec 4) : Option Counter := Counter.all[v.toNat]?

/-- Format Z: `A` and `B` are all zero (R83, R85). -/
def operandsZ (w : CmdWord) (i : Instr) : Option Instr :=
  if fieldA w = 0#32 ∧ fieldB w = 0#32 then some i else none

/-- Format R: `A[31:20]` and `B` are zero, then kind, dest, src1, src2 (R83, R85, R86, R87). -/
def operandsR (w : CmdWord) : Option Instr :=
  if (fieldA w).extractLsb' 20 12 = 0#12 ∧ fieldB w = 0#32 then
    match decodeKind ((fieldA w).extractLsb' 18 2), decodeSlot ((fieldA w).extractLsb' 12 6),
        decodeSlot ((fieldA w).extractLsb' 6 6), decodeSlot ((fieldA w).extractLsb' 0 6) with
    | some kind, some dest, some src1, some src2 => some (.record dest src1 src2 kind)
    | _, _, _, _ => none
  else none

/-- Format A: `A` is the address and `B` is zero (R83, R85, R89). -/
def operandsA (w : CmdWord) (mk : Addr → Instr) : Option Instr :=
  if fieldB w = 0#32 then some (mk (fieldA w)) else none

/-- Format P: `A` is the pc and `B` the second address (R83, R89). -/
def operandsP (w : CmdWord) (mk : Addr → Addr → Instr) : Option Instr :=
  some (mk (fieldA w) (fieldB w))

/-- Format C: `A[31:4]` and `B` are zero, `A[3:0]` is the selector (R83, R85, R88). -/
def operandsC (w : CmdWord) : Option Instr :=
  if (fieldA w).extractLsb' 4 28 = 0#28 ∧ fieldB w = 0#32 then
    (decodeSel ((fieldA w).extractLsb' 0 4)).map .rdctr
  else none

/-- The operands of a word by its opcode (R84); the outer `none` is a reserved opcode, the inner one an illegal
operand. -/
def operandsOf (w : CmdWord) : Option (Option Instr) :=
  if opField w = 0x1#4 then some (operandsZ w .reset)
  else if opField w = 0x2#4 then some (operandsR w)
  else if opField w = 0x3#4 then some (operandsZ w .check)
  else if opField w = 0x4#4 then some (operandsA w .dread)
  else if opField w = 0x5#4 then some (operandsA w .dwrite)
  else if opField w = 0x6#4 then some (operandsA w .ifetch)
  else if opField w = 0x7#4 then some (operandsP w .btaken)
  else if opField w = 0x8#4 then some (operandsP w .bntaken)
  else if opField w = 0x9#4 then some (operandsC w)
  else if opField w = 0xA#4 then some (operandsZ w .rdstat)
  else none

/-- Decoding, total on all 2^68 words: reserved opcode first, then the operand checks, then the command
(R90, R92). -/
def decode (w : CmdWord) : Decoded :=
  match operandsOf w with
  | none => .illegalOpcode
  | some none => .illegalOperand
  | some (some i) => .cmd i

/-- The word `op, A, B` with `op` most significant (R80). -/
def cmdWord (op : BitVec 4) (a b : BitVec 32) : CmdWord := op ++ a ++ b

/-- The stored and the operand encoding of a slot (R86, 10_state.md R23). -/
def encodeSlot : RegSlot → BitVec 6
  | .none => 0b000000#6
  | .reg i => 1#1 ++ i

/-- The encoding of a kind (R87; 10_state.md R24 for `Uninitialized`). -/
def encodeKind : Kind → BitVec 2
  | .uninitialized => 0b00#2
  | .memoryRead => 0b01#2
  | .normal => 0b10#2

/-- The opcode of a command (R84). -/
def Instr.opcode : Instr → BitVec 4
  | .reset => 0x1#4
  | .record _ _ _ _ => 0x2#4
  | .check => 0x3#4
  | .dread _ => 0x4#4
  | .dwrite _ => 0x5#4
  | .ifetch _ => 0x6#4
  | .btaken _ _ => 0x7#4
  | .bntaken _ _ => 0x8#4
  | .rdctr _ => 0x9#4
  | .rdstat => 0xA#4

/-- The field `A` of a command's word (R83). -/
def Instr.operandA : Instr → BitVec 32
  | .reset => 0#32
  | .record dest src1 src2 kind =>
    0#12 ++ encodeKind kind ++ encodeSlot dest ++ encodeSlot src1 ++ encodeSlot src2
  | .check => 0#32
  | .dread addr => addr
  | .dwrite addr => addr
  | .ifetch addr => addr
  | .btaken pc _ => pc
  | .bntaken pc _ => pc
  | .rdctr sel => 0#28 ++ sel.code
  | .rdstat => 0#32

/-- The field `B` of a command's word (R83). -/
def Instr.operandB : Instr → BitVec 32
  | .btaken _ tgt => tgt
  | .bntaken _ tgt => tgt
  | .reset => 0#32
  | .record _ _ _ _ => 0#32
  | .check => 0#32
  | .dread _ => 0#32
  | .dwrite _ => 0#32
  | .ifetch _ => 0#32
  | .rdctr _ => 0#32
  | .rdstat => 0#32

/-- The word of a command (R80, R83, R84, R89). -/
def encode (i : Instr) : CmdWord := cmdWord i.opcode i.operandA i.operandB

/-- The command word that a row's bits `w` stand for, bit 0 of the table being `cmd[0]`: the low `nbits` bits, zero
above them. The port has 68 wires, so a bit above 67 has nowhere to go (log 13). -/
def tableWord (nbits w : Nat) : CmdWord := BitVec.ofNat 68 (w % 2 ^ nbits)

/-- The instruction the decoder reads from a word given as the opcode table numbers its bits. -/
def decodeTableWord (nbits w : Nat) : Option Instr :=
  match decode (tableWord nbits w) with
  | .cmd i => some i
  | .illegalOpcode => none
  | .illegalOperand => none

end Sys2Proof
end

