-- ==== Sys2Proof/Machine/Entries.lean ====
section
/-! DEFINITION. The records the block's arrays and contexts are made of (10_state.md R22, R26, R28, R30), the
predictor states, the fault codes (60_exceptions.md) and what the boundary's inputs can carry (30_encoding.md R81). -/

namespace Sys2Proof.Machine

/-- An instruction context of the HazardTracker (10_state.md R22). -/
structure Context where
  dest : RegSlot
  src1 : RegSlot
  src2 : RegSlot
  kind : Kind
  deriving DecidableEq, Repr, Inhabited

/-- A line of the data cache model (10_state.md R26). The tag is held in 32 bits; that it fits `D_TAG_BITS` is part
of the state invariant (Safety.lean). -/
structure DLine where
  tag : BitVec 32
  valid : Bool
  dirty : Bool
  deriving DecidableEq, Repr, Inhabited

/-- A line of the instruction cache model, which has no dirty bit (10_state.md R28). -/
structure ILine where
  tag : BitVec 32
  valid : Bool
  deriving DecidableEq, Repr, Inhabited

/-- The direction state of the 1-bit strategy (10_state.md R30). -/
inductive OneBit where
  | notTaken
  | taken
  deriving DecidableEq, Repr, Inhabited

/-- The direction state of the 2-bit strategy (10_state.md R30). -/
inductive TwoBit where
  | stronglyNotTaken
  | weaklyNotTaken
  | weaklyTaken
  | stronglyTaken
  deriving DecidableEq, Repr, Inhabited

/-- An entry of the 1-bit table (10_state.md R30). -/
structure B1Entry where
  state : OneBit
  target : Addr
  deriving DecidableEq, Repr, Inhabited

/-- An entry of the 2-bit table (10_state.md R30). -/
structure B2Entry where
  state : TwoBit
  target : Addr
  deriving DecidableEq, Repr, Inhabited

/-- What `status.fault` can hold: no fault, or one of the five codes of 60_exceptions.md R173 to R178. Codes 6 to 15
are never latched (R178, 93_implementation_defined.md U10). The spec's faults do not stop the machine. -/
inductive FaultCode where
  | none
  | illegalOpcode
  | illegalOperand
  | notReady
  | checkWithoutRecord
  | recordWithoutCheck
  deriving DecidableEq, Repr, Inhabited

/-- One event on the block's inputs (30_encoding.md R81): an accepted command word, or the hardware reset `rst`
(70_reset_and_hazards.md R190). -/
inductive Input where
  | cmd (w : CmdWord)
  | rst
  deriving DecidableEq, Repr, Inhabited

end Sys2Proof.Machine
end

