-- ==== Sys2Proof/Config.lean ====
section
/-! DEFINITION. The implementation parameters (00_scope.md R7 to R9) and the free values: constants without a body, for
the values the spec leaves unspecified (93_implementation_defined.md U1, U2, U6). -/

namespace Sys2Proof

/-- The geometry of one cache instance: `X_ROWS` and `X_LINE_BYTES` (00_scope.md R7). -/
structure Geometry where
  rows : Nat
  lineBytes : Nat
  deriving DecidableEq, Repr

/-- The OPEN parameters of 00_scope.md R7. -/
structure Config where
  dcache : Geometry
  icache : Geometry
  k : Nat
  tgtReset : Addr
  deriving DecidableEq, Repr

/-- The reference configuration `REF` (00_scope.md R9). -/
def Config.ref : Config where
  dcache := { rows := 64, lineBytes := 16 }
  icache := { rows := 32, lineBytes := 16 }
  k := 15
  tgtReset := 0#32

/-! ## Free values

`draw` is the value of the state's counter `draws` when the value is taken. -/

/-- A counter whose sum has passed 2^64 - 1 (10_state.md R32, U1; log 6), and a counter after power-on or `rst`
(70_reset_and_hazards.md R190, U2; log 7). -/
opaque Config.freeCounter (draw : Nat) (c : Counter) : Count

/-- The response to RDCTR before the first RESET (60_exceptions.md R176, U6; log 8). -/
opaque Config.freeResponse (draw : Nat) : Count

/-- An instruction context after power-on or `rst` (R190, U2; log 7): 0 is current, 1 is previous. -/
opaque Config.freeContext (draw : Nat) (which : Nat) : Machine.Context

/-- A data cache line after power-on or `rst` (R190, U2; log 7). -/
opaque Config.freeDLine (draw : Nat) (row : Nat) : Machine.DLine

/-- An instruction cache line after power-on or `rst` (R190, U2; log 7). -/
opaque Config.freeILine (draw : Nat) (row : Nat) : Machine.ILine

/-- An always-taken target after power-on or `rst` (R190, U2; log 7). -/
opaque Config.freeTarget (draw : Nat) (index : Nat) : Addr

/-- A 1-bit entry after power-on or `rst` (R190, U2; log 7). -/
opaque Config.freeB1 (draw : Nat) (index : Nat) : Machine.B1Entry

/-- A 2-bit entry after power-on or `rst` (R190, U2; log 7). -/
opaque Config.freeB2 (draw : Nat) (index : Nat) : Machine.B2Entry

end Sys2Proof
end

