-- ==== Sys2Proof/Machine/State.lean ====
section
/-! DEFINITION. The state of the block (10_state.md R37) as plain data, the machine right after RESET, and the reasons
a step can stop. -/

namespace Sys2Proof.Machine

/-- The fourteen 64-bit counters (10_state.md R31). -/
structure Counters where
  haz : Count
  dmiss : Count
  imiss : Count
  unal : Count
  dacc : Count
  iacc : Count
  atHit : Count
  atMiss : Count
  ntHit : Count
  ntMiss : Count
  b1Hit : Count
  b1Miss : Count
  b2Hit : Count
  b2Miss : Count
  deriving DecidableEq, Repr

/-- The status register (10_state.md R33); its 6-bit word is `Status.word` (Flags.lean). -/
structure Status where
  armed : Bool
  ready : Bool
  fault : FaultCode
  deriving DecidableEq, Repr

/-- Everything the block holds (10_state.md R37), with four fields of the model's own: `cfg` (the parameters of
00_scope.md R7, log 1), `inputs` (what the host will present, log 3), `rsp` (the response port as the last step drove
it, log 4) and `draws` (how many free values were drawn, log 9). -/
structure State where
  /-- The configuration, which no command changes (70_reset_and_hazards.md R193). -/
  cfg : Config
  /-- `hz.cur` (10_state.md R22). -/
  cur : Context
  /-- `hz.prev` (10_state.md R22). -/
  prev : Context
  /-- `dline` (10_state.md R26). -/
  dline : Table DLine
  /-- `iline` (10_state.md R28). -/
  iline : Table ILine
  /-- `at[i].target` (10_state.md R29). -/
  atTgt : Table Addr
  /-- `b1` (10_state.md R30). -/
  b1 : Table B1Entry
  /-- `b2` (10_state.md R30). -/
  b2 : Table B2Entry
  /-- `ctr.*` (10_state.md R31). -/
  ctrs : Counters
  /-- `status` (10_state.md R33). -/
  status : Status
  /-- `rsp_valid` and `rsp_data` (30_encoding.md R81, R82) as the last step drove them. -/
  rsp : Option Count
  /-- How many free values have been drawn. -/
  draws : Nat
  /-- What the host will drive on the inputs (30_encoding.md R81), oldest first. -/
  inputs : List Input
  deriving DecidableEq, Repr

/-- The state right after a RESET under a configuration (10_state.md R37, last column), with nothing presented yet.
An array with nothing listed holds its reset value at every index. -/
def State.afterReset (cfg : Config) : State where
  cfg := cfg
  cur := { dest := .none, src1 := .none, src2 := .none, kind := .uninitialized }
  prev := { dest := .none, src1 := .none, src2 := .none, kind := .uninitialized }
  dline := []
  iline := []
  atTgt := []
  b1 := []
  b2 := []
  ctrs :=
    { haz := 0#64, dmiss := 0#64, imiss := 0#64, unal := 0#64, dacc := 0#64, iacc := 0#64, atHit := 0#64,
      atMiss := 0#64, ntHit := 0#64, ntMiss := 0#64, b1Hit := 0#64, b1Miss := 0#64, b2Hit := 0#64, b2Miss := 0#64 }
  status := { armed := false, ready := true, fault := .none }
  rsp := none
  draws := 0
  inputs := []

/-- The machine right after RESET (70_reset_and_hazards.md R191) in the reference configuration (00_scope.md R9;
logs 1, 2). -/
def State.reset : State := State.afterReset Config.ref

/-- Why a step can stop with a fault: never. Every violation the spec describes is latched in `status.fault` and the
machine goes on (60_exceptions.md R171, R172), so this type has no constructor. -/
inductive Fault where
  deriving DecidableEq, Repr

/-- Why a step can be refused. -/
inductive Refusal where
  /-- Raised by an arm of exec whose instruction has no meaning yet; no arm uses it. Safe. -/
  | notModelled (mnemonic : String)
  deriving DecidableEq, Repr

end Sys2Proof.Machine
end

