-- ==== Sys2Proof/Machine/Flags.lean ====
section
/-! DEFINITION. The status register (10_state.md R33): its fault codes, its word, and the changes commands make to it. -/

namespace Sys2Proof.Machine

/-- The 4-bit code in `status.fault` (60_exceptions.md R173 to R178). -/
def FaultCode.code : FaultCode → BitVec 4
  | .none => 0#4
  | .illegalOpcode => 1#4
  | .illegalOperand => 2#4
  | .notReady => 3#4
  | .checkWithoutRecord => 4#4
  | .recordWithoutCheck => 5#4

/-- `status[5:0]`: bit 5 `armed`, bit 4 `ready`, bits 3:0 `fault` (10_state.md R33). -/
def Status.word (t : Status) : BitVec 6 :=
  BitVec.ofBool t.armed ++ BitVec.ofBool t.ready ++ FaultCode.code t.fault

/-- The response of RDSTAT: the status register zero-extended to 64 bits (43_control.md R162). -/
def Status.response (t : Status) : Count := (Status.word t).setWidth 64

/-- The status after RESET (10_state.md R33). -/
def statusReset : Status := { armed := false, ready := true, fault := .none }

/-- The status after power-on or `rst` (70_reset_and_hazards.md R190). -/
def statusPowerOn : Status := { armed := false, ready := false, fault := .none }

/-- `status.armed <- b`. -/
def Status.setArmed (t : Status) (b : Bool) : Status := { t with armed := b }

/-- The latch keeps the first fault since the last RESET (60_exceptions.md R171). -/
def Status.latch (t : Status) (code : FaultCode) : Status :=
  if t.fault = .none then { t with fault := code } else t

end Sys2Proof.Machine
end

