-- ==== Sys2Proof/Machine/Operands.lean ====
section
/-! DEFINITION. The address functions of 20_memory.md (R51 to R58) and the derived widths of 00_scope.md R8. Every one
is pure: it reads its argument and the configuration. -/

namespace Sys2Proof.Machine

/-- `X_OFF_BITS = log2(X_LINE_BYTES)` (00_scope.md R8). -/
def offBits (g : Geometry) : Nat := Nat.log2 g.lineBytes

/-- `X_ROW_BITS = log2(X_ROWS)` (00_scope.md R8). -/
def rowBits (g : Geometry) : Nat := Nat.log2 g.rows

/-- `X_WORDS = X_LINE_BYTES / 4` (00_scope.md R8). -/
def lineWords (g : Geometry) : Nat := g.lineBytes / 4

/-- `X_TAG_BITS = ADDR_BITS - X_OFF_BITS - X_ROW_BITS` (00_scope.md R8). -/
def tagBits (g : Geometry) : Nat := 32 - offBits g - rowBits g

/-- A geometry inside the constraints of 00_scope.md R7 and R8: both sizes powers of two, lines of at least 4 bytes,
at least one tag bit. -/
def geometryOk (g : Geometry) : Bool :=
  g.rows == 2 ^ rowBits g && g.lineBytes == 2 ^ offBits g && decide (4 ≤ g.lineBytes)
    && decide (offBits g + rowBits g < 32)

/-- A configuration inside the constraints of 00_scope.md R7 and R8 (`refuse` outside them,
93_implementation_defined.md U11). -/
def configOk (c : Config) : Bool := geometryOk c.dcache && geometryOk c.icache && decide (c.k ≤ 30)

/-- `row_X(a) = (a >> X_OFF_BITS) & (X_ROWS - 1)` (20_memory.md R53). -/
def rowOf (g : Geometry) (a : Addr) : Nat := ((a >>> offBits g) &&& BitVec.ofNat 32 (g.rows - 1)).toNat

/-- `tag_X(a) = (a >> X_OFF_BITS) >> X_ROW_BITS` (20_memory.md R54). -/
def tagOf (g : Geometry) (a : Addr) : BitVec 32 := (a >>> offBits g) >>> rowBits g

/-- `word_X(a) = (a >> 2) & (X_WORDS - 1)` (20_memory.md R55). -/
def wordOf (g : Geometry) (a : Addr) : Nat := ((a >>> 2) &&& BitVec.ofNat 32 (lineWords g - 1)).toNat

/-- `lastword_X(a)`: `word_X(a) == X_WORDS - 1` (20_memory.md R55). -/
def lastWord (g : Geometry) (a : Addr) : Bool := wordOf g a == lineWords g - 1

/-- `a mod 4 != 0` (20_memory.md R56). -/
def unaligned (a : Addr) : Bool := a &&& 3#32 != 0#32

/-- `spill(a) = a + 4 - (a mod 4)` modulo 2^32 (20_memory.md R51, R56). -/
def spill (a : Addr) : Addr := a + 4#32 - (a &&& 3#32)

/-- `idx(pc) = (pc >> 2) & (2^K - 1)` (20_memory.md R58). -/
def predictorIndex (k : Nat) (pc : Addr) : Nat := ((pc >>> 2) &&& BitVec.ofNat 32 (2 ^ k - 1)).toNat

/-- `pc + 4` modulo 2^32 (20_memory.md R51; 42_branch.md R149). -/
def fallThrough (pc : Addr) : Addr := pc + 4#32

/-- All ones at a tag's width (10_state.md R27, R28). -/
def allOnesTag (g : Geometry) : BitVec 32 := BitVec.ofNat 32 (2 ^ tagBits g - 1)

/-- The reset value of a data cache line (10_state.md R27). -/
def dlineReset (c : Config) : DLine := { tag := allOnesTag c.dcache, valid := false, dirty := false }

/-- The reset value of an instruction cache line (10_state.md R28). -/
def ilineReset (c : Config) : ILine := { tag := allOnesTag c.icache, valid := false }

/-- The reset value of a 1-bit entry (10_state.md R34). -/
def b1Reset (c : Config) : B1Entry := { state := .taken, target := c.tgtReset }

/-- The reset value of a 2-bit entry (10_state.md R34). -/
def b2Reset (c : Config) : B2Entry := { state := .stronglyTaken, target := c.tgtReset }

/-- The reset value of an instruction context (10_state.md R25). -/
def contextReset : Context := { dest := .none, src1 := .none, src2 := .none, kind := .uninitialized }

/-- The length of each predictor table, `2^K` (00_scope.md R7). -/
def predictorSize (c : Config) : Nat := 2 ^ c.k

end Sys2Proof.Machine
end

