-- ==== Sys2Proof/Machine/Ops.lean ====
section
/-! DEFINITION. The named operations every meaning is made of: reading and writing the arrays, counting, responding,
raising a fault (60_exceptions.md R172), the common precondition of every command (R176), RESET's initialisation
(43_control.md R160) and the hardware reset (70_reset_and_hazards.md R190). -/

namespace Sys2Proof

/-! ## Arrays

`dflt` is what an unlisted index reads as. -/

/-- The entry at an index. -/
def Table.read {α : Type} (dflt : α) : Table α → Nat → α
  | [], _ => dflt
  | (k, v) :: t, i => if k = i then v else Table.read dflt t i

/-- The array without what it lists at an index. -/
def Table.erase {α : Type} (t : Table α) (i : Nat) : Table α := t.filter fun e => e.1 != i

/-- The array with an entry listed before the first larger index. -/
def Table.insert {α : Type} : Table α → Nat → α → Table α
  | [], i, v => [(i, v)]
  | (k, w) :: t, i, v => if i < k then (i, v) :: (k, w) :: t else (k, w) :: Table.insert t i v

/-- The array with `v` at an index; writing what an unlisted index reads as lists nothing. -/
def Table.write {α : Type} [DecidableEq α] (dflt : α) (t : Table α) (i : Nat) (v : α) : Table α :=
  if v = dflt then Table.erase t i else Table.insert (Table.erase t i) i v

/-- The array of `n` entries that `f` gives. -/
def Table.ofFn {α : Type} [DecidableEq α] (dflt : α) (n : Nat) (f : Nat → α) : Table α :=
  ((List.range n).map fun i => (i, f i)).filter fun e => e.2 != dflt

/-- The canonical form: indices strictly rising and inside the array, no entry equal to what an unlisted index
reads as. -/
abbrev Table.Canonical {α : Type} [DecidableEq α] (dflt : α) (size : Nat) (t : Table α) : Prop :=
  t.Pairwise (fun x y => x.1 < y.1) ∧ ∀ e ∈ t, e.1 < size ∧ e.2 ≠ dflt

end Sys2Proof

namespace Sys2Proof.Machine

/-- `dline[r]` (10_state.md R26). -/
def State.dlineAt (s : State) (r : Nat) : DLine := Table.read (dlineReset s.cfg) s.dline r

/-- `iline[r]` (10_state.md R28). -/
def State.ilineAt (s : State) (r : Nat) : ILine := Table.read (ilineReset s.cfg) s.iline r

/-- `at[i].target` (10_state.md R29). -/
def State.targetAt (s : State) (i : Nat) : Addr := Table.read s.cfg.tgtReset s.atTgt i

/-- `b1[i]` (10_state.md R30). -/
def State.b1At (s : State) (i : Nat) : B1Entry := Table.read (b1Reset s.cfg) s.b1 i

/-- `b2[i]` (10_state.md R30). -/
def State.b2At (s : State) (i : Nat) : B2Entry := Table.read (b2Reset s.cfg) s.b2 i

/-- `dline[r] <- l`. -/
def State.setDline (s : State) (r : Nat) (l : DLine) : State :=
  { s with dline := Table.write (dlineReset s.cfg) s.dline r l }

/-- `iline[r] <- l`. -/
def State.setIline (s : State) (r : Nat) (l : ILine) : State :=
  { s with iline := Table.write (ilineReset s.cfg) s.iline r l }

/-- `at[i].target <- a`. -/
def State.setTarget (s : State) (i : Nat) (a : Addr) : State :=
  { s with atTgt := Table.write s.cfg.tgtReset s.atTgt i a }

/-- `b1[i] <- e`. -/
def State.setB1 (s : State) (i : Nat) (e : B1Entry) : State :=
  { s with b1 := Table.write (b1Reset s.cfg) s.b1 i e }

/-- `b2[i] <- e`. -/
def State.setB2 (s : State) (i : Nat) (e : B2Entry) : State :=
  { s with b2 := Table.write (b2Reset s.cfg) s.b2 i e }

/-! ## Counters -/

/-- `ctr[c]` of the counter file (10_state.md R31). -/
def Counters.get (t : Counters) : Counter → Count
  | .haz => t.haz
  | .dmiss => t.dmiss
  | .imiss => t.imiss
  | .unal => t.unal
  | .dacc => t.dacc
  | .iacc => t.iacc
  | .atHit => t.atHit
  | .atMiss => t.atMiss
  | .ntHit => t.ntHit
  | .ntMiss => t.ntMiss
  | .b1Hit => t.b1Hit
  | .b1Miss => t.b1Miss
  | .b2Hit => t.b2Hit
  | .b2Miss => t.b2Miss

/-- `ctr[c] <- v` of the counter file. -/
def Counters.set (t : Counters) (c : Counter) (v : Count) : Counters :=
  match c with
  | .haz => { t with haz := v }
  | .dmiss => { t with dmiss := v }
  | .imiss => { t with imiss := v }
  | .unal => { t with unal := v }
  | .dacc => { t with dacc := v }
  | .iacc => { t with iacc := v }
  | .atHit => { t with atHit := v }
  | .atMiss => { t with atMiss := v }
  | .ntHit => { t with ntHit := v }
  | .ntMiss => { t with ntMiss := v }
  | .b1Hit => { t with b1Hit := v }
  | .b1Miss => { t with b1Miss := v }
  | .b2Hit => { t with b2Hit := v }
  | .b2Miss => { t with b2Miss := v }

/-- The counter file that holds `f c` in every counter `c`. -/
def Counters.ofFn (f : Counter → Count) : Counters where
  haz := f .haz
  dmiss := f .dmiss
  imiss := f .imiss
  unal := f .unal
  dacc := f .dacc
  iacc := f .iacc
  atHit := f .atHit
  atMiss := f .atMiss
  ntHit := f .ntHit
  ntMiss := f .ntMiss
  b1Hit := f .b1Hit
  b1Miss := f .b1Miss
  b2Hit := f .b2Hit
  b2Miss := f .b2Miss

/-- `ctr.c`. -/
def State.ctr (s : State) (c : Counter) : Count := s.ctrs.get c

/-- `ctr.c <- v`. -/
def State.setCtr (s : State) (c : Counter) (v : Count) : State := { s with ctrs := s.ctrs.set c v }

/-- `ctr.c <- ctr.c + n` (10_state.md R32): the exact sum while it stays within 64 bits; past that the spec leaves the
counter unspecified, and it takes a free value (U1; log 6). -/
def count (c : Counter) (n : Nat) (s : State) : State :=
  if (s.ctr c).toNat + n < 2 ^ 64 then s.setCtr c (BitVec.ofNat 64 ((s.ctr c).toNat + n))
  else { s.setCtr c (Config.freeCounter s.draws c) with draws := s.draws + 1 }

/-! ## Responses and faults -/

/-- The response port with nothing on it: a response exists only during the command that drives it
(10_state.md R36, 30_encoding.md R82). -/
def quiet (s : State) : State := { s with rsp := none }

/-- `respond(v)` (30_encoding.md R82). -/
def respond (v : Count) (s : State) : State := { s with rsp := some v }

/-- `raise Fault(code)`: taking a fault. The latch takes the code if it holds none; nothing else changes
(60_exceptions.md R171, R172, R183). -/
def raise (code : FaultCode) (s : State) : State := { s with status := s.status.latch code }

/-- `status.armed <- b`. -/
def setArmed (b : Bool) (s : State) : State := { s with status := s.status.setArmed b }

/-- The tail of 60_exceptions.md R176, which every command but RESET, RDSTAT and RDCTR goes through: NOT_READY before
the first RESET (R175), no change while a fault is latched (R177), otherwise the command's own effect. No such command
produces a response (30_encoding.md R82). -/
def whenRunning (act : State → State) (s : State) : State :=
  if s.status.ready = false then raise .notReady (quiet s)
  else if s.status.fault ≠ .none then quiet s
  else act (quiet s)

/-! ## Reset -/

/-- RESET's assignments (43_control.md R160): every element of 10_state.md R37 at its reset value. An array with
nothing listed holds its reset value at every index. The configuration, what the host has yet to present and the draw
counter are no state of the block and stay. -/
def initialise (s : State) : State :=
  { s with
    cur := contextReset
    prev := contextReset
    dline := []
    iline := []
    atTgt := []
    b1 := []
    b2 := []
    ctrs := Counters.ofFn fun _ => 0#64
    status := statusReset }

/-- A tag cut to the width of its array (00_scope.md R8). -/
def fitTag (g : Geometry) (t : BitVec 32) : BitVec 32 := t &&& allOnesTag g

/-- Power-on and the hardware reset input `rst` (70_reset_and_hazards.md R190): the not-ready state, every other
element unspecified (U2; log 7). -/
def hardReset (s : State) : State :=
  { s with
    cur := Config.freeContext s.draws 0
    prev := Config.freeContext s.draws 1
    dline := Table.ofFn (dlineReset s.cfg) s.cfg.dcache.rows fun r =>
      { Config.freeDLine s.draws r with tag := fitTag s.cfg.dcache (Config.freeDLine s.draws r).tag }
    iline := Table.ofFn (ilineReset s.cfg) s.cfg.icache.rows fun r =>
      { Config.freeILine s.draws r with tag := fitTag s.cfg.icache (Config.freeILine s.draws r).tag }
    atTgt := Table.ofFn s.cfg.tgtReset (predictorSize s.cfg) (Config.freeTarget s.draws)
    b1 := Table.ofFn (b1Reset s.cfg) (predictorSize s.cfg) (Config.freeB1 s.draws)
    b2 := Table.ofFn (b2Reset s.cfg) (predictorSize s.cfg) (Config.freeB2 s.draws)
    ctrs := Counters.ofFn (Config.freeCounter s.draws)
    status := statusPowerOn
    rsp := none
    draws := s.draws + 1 }

end Sys2Proof.Machine
end

