-- ==== Sys2Proof/Machine/Branch.lean ====
section
/-! DEFINITION. The BranchPredictorBank operations BTAKEN and BNTAKEN (42_branch.md). -/

namespace Sys2Proof.Machine

/-- What a strategy's update does to its entry and which of its two counters it increments. -/
structure Scored (α : Type) where
  hit : Bool
  entry : α
  deriving DecidableEq, Repr

/-- The 1-bit strategy on a taken branch (42_branch.md R146). -/
def b1Taken (e : B1Entry) (tgt : Addr) : Scored B1Entry :=
  match e.state with
  | .notTaken => { hit := false, entry := { state := .taken, target := tgt } }
  | .taken => if e.target ≠ tgt then { hit := false, entry := { state := .taken, target := tgt } }
      else { hit := true, entry := e }

/-- The 1-bit strategy on a not-taken branch: the stored target is not compared (42_branch.md R150). -/
def b1NotTaken (e : B1Entry) (nt : Addr) : Scored B1Entry :=
  match e.state with
  | .taken => { hit := false, entry := { state := .notTaken, target := nt } }
  | .notTaken => { hit := true, entry := e }

/-- The 2-bit strategy on a taken branch: the collapse from the not-taken side, the demotion on a stale target, the
promotion on a hit (42_branch.md R148). -/
def b2Taken (e : B2Entry) (tgt : Addr) : Scored B2Entry :=
  match e.state with
  | .stronglyNotTaken => { hit := false, entry := { state := .weaklyTaken, target := tgt } }
  | .weaklyNotTaken => { hit := false, entry := { state := .weaklyTaken, target := tgt } }
  | .weaklyTaken => if e.target ≠ tgt then { hit := false, entry := { state := .weaklyNotTaken, target := tgt } }
      else { hit := true, entry := { state := .stronglyTaken, target := e.target } }
  | .stronglyTaken => if e.target ≠ tgt then { hit := false, entry := { state := .weaklyTaken, target := tgt } }
      else { hit := true, entry := { state := .stronglyTaken, target := e.target } }

/-- The 2-bit strategy on a not-taken branch, the mirror image (42_branch.md R151). -/
def b2NotTaken (e : B2Entry) (nt : Addr) : Scored B2Entry :=
  match e.state with
  | .stronglyTaken => { hit := false, entry := { state := .weaklyNotTaken, target := nt } }
  | .weaklyTaken => { hit := false, entry := { state := .weaklyNotTaken, target := nt } }
  | .weaklyNotTaken => if e.target ≠ nt then { hit := false, entry := { state := .weaklyTaken, target := nt } }
      else { hit := true, entry := { state := .stronglyNotTaken, target := e.target } }
  | .stronglyNotTaken => if e.target ≠ nt then { hit := false, entry := { state := .weaklyNotTaken, target := nt } }
      else { hit := true, entry := { state := .stronglyNotTaken, target := e.target } }

/-- The 1-bit strategy's update of entry `i`: one of its counters, and the entry (42_branch.md R140). -/
def scoreB1 (i : Nat) (r : Scored B1Entry) (s : State) : State :=
  (count (if r.hit then .b1Hit else .b1Miss) 1 s).setB1 i r.entry

/-- The 2-bit strategy's update of entry `i`: one of its counters, and the entry (42_branch.md R140). -/
def scoreB2 (i : Nat) (r : Scored B2Entry) (s : State) : State :=
  (count (if r.hit then .b2Hit else .b2Miss) 1 s).setB2 i r.entry

/-- `at_taken`: an unconditional hit, target recorded (42_branch.md R142). -/
def atTaken (i : Nat) (tgt : Addr) (s : State) : State := (count .atHit 1 s).setTarget i tgt

/-- `at_nottaken`: a miss, target untouched (42_branch.md R143). -/
def atNotTaken (s : State) : State := count .atMiss 1 s

/-- `nt_taken`: a miss, no state (42_branch.md R144). -/
def ntTaken (s : State) : State := count .ntMiss 1 s

/-- `nt_nottaken`: a hit, no state (42_branch.md R145). -/
def ntNotTaken (s : State) : State := count .ntHit 1 s

/-- `b1_taken` (42_branch.md R146). -/
def scoreB1Taken (i : Nat) (tgt : Addr) (s : State) : State := scoreB1 i (b1Taken (s.b1At i) tgt) s

/-- `b2_taken` (42_branch.md R148). -/
def scoreB2Taken (i : Nat) (tgt : Addr) (s : State) : State := scoreB2 i (b2Taken (s.b2At i) tgt) s

/-- `b1_nottaken` (42_branch.md R150). -/
def scoreB1NotTaken (i : Nat) (nt : Addr) (s : State) : State := scoreB1 i (b1NotTaken (s.b1At i) nt) s

/-- `b2_nottaken` (42_branch.md R151). -/
def scoreB2NotTaken (i : Nat) (nt : Addr) (s : State) : State := scoreB2 i (b2NotTaken (s.b2At i) nt) s

/-- BTAKEN's procedure on entry `i` (42_branch.md R141). -/
def branchTaken (i : Nat) (tgt : Addr) (s : State) : State :=
  scoreB2Taken i tgt (scoreB1Taken i tgt (ntTaken (atTaken i tgt s)))

/-- BNTAKEN's procedure on entry `i` (42_branch.md R149). -/
def branchNotTaken (i : Nat) (nt : Addr) (s : State) : State :=
  scoreB2NotTaken i nt (scoreB1NotTaken i nt (ntNotTaken (atNotTaken s)))

/-- BTAKEN (42_branch.md R141). -/
def execBtaken (pc tgt : Addr) (s : State) : Host.Outcome State Fault Refusal :=
  .next (whenRunning (branchTaken (predictorIndex s.cfg.k pc) tgt) s)

/-- BNTAKEN: the second operand is accepted and not read (42_branch.md R149). -/
def execBntaken (pc _tgt : Addr) (s : State) : Host.Outcome State Fault Refusal :=
  .next (whenRunning (branchNotTaken (predictorIndex s.cfg.k pc) (fallThrough pc)) s)

end Sys2Proof.Machine
end

