-- ==== Sys2Proof/Machine/Cache.lean ====
section
/-! DEFINITION. The CacheModel operations DREAD, DWRITE and IFETCH (41_cache.md). -/

namespace Sys2Proof.Machine

/-- The miss increment of a read line access, by the line before it (41_cache.md R121, R122). -/
def readCost (l : DLine) (tag : BitVec 32) : Nat :=
  if l.valid = false then 1
  else if l.tag ≠ tag then (if l.dirty = true then 2 else 1)
  else 0

/-- The miss increment of a write line access, by the line before it (41_cache.md R124). -/
def writeCost (l : DLine) (tag : BitVec 32) : Nat := if l.valid = true ∧ l.tag ≠ tag then 1 else 0

/-- The line after a read line access (41_cache.md R121). -/
def readLineAfter (tag : BitVec 32) : DLine := { tag := tag, valid := true, dirty := false }

/-- The line after a write line access: `valid` is left as it was (41_cache.md R124). -/
def writeLineAfter (l : DLine) (tag : BitVec 32) : DLine := { tag := tag, valid := l.valid, dirty := true }

/-- `read_line(a)` (41_cache.md R121). -/
def readLine (a : Addr) (s : State) : State :=
  (count .dmiss (readCost (s.dlineAt (rowOf s.cfg.dcache a)) (tagOf s.cfg.dcache a)) s).setDline
    (rowOf s.cfg.dcache a) (readLineAfter (tagOf s.cfg.dcache a))

/-- `write_line(a)` (41_cache.md R124). -/
def writeLine (a : Addr) (s : State) : State :=
  (count .dmiss (writeCost (s.dlineAt (rowOf s.cfg.dcache a)) (tagOf s.cfg.dcache a)) s).setDline
    (rowOf s.cfg.dcache a) (writeLineAfter (s.dlineAt (rowOf s.cfg.dcache a)) (tagOf s.cfg.dcache a))

/-- The access spills into the next line: it is unaligned and starts in the last word of its line (41_cache.md R123,
20_memory.md R55). -/
def spills (g : Geometry) (a : Addr) : Bool := unaligned a && lastWord g a

/-- `unaligned_tail(a, P)` (41_cache.md R123); the spill is a line access only (R126). -/
def unalignedTail (a : Addr) (line : Addr → State → State) (s : State) : State :=
  if unaligned a then
    if lastWord s.cfg.dcache a then line (spill a) (count .unal 1 s) else count .unal 1 s
  else s

/-- A data command: the access total, the line access, the unaligned tail (41_cache.md R120, R125). -/
def dataAccess (line : Addr → State → State) (a : Addr) (s : State) : State :=
  unalignedTail a line (line a (count .dacc 1 s))

/-- The miss increment of a fetch, by the line before it (41_cache.md R127). -/
def fetchCost (l : ILine) (tag : BitVec 32) : Nat := if l.valid = false ∨ l.tag ≠ tag then 1 else 0

/-- The line access of IFETCH (41_cache.md R127). -/
def fetchLine (a : Addr) (s : State) : State :=
  (count .imiss (fetchCost (s.ilineAt (rowOf s.cfg.icache a)) (tagOf s.cfg.icache a)) s).setIline
    (rowOf s.cfg.icache a) { tag := tagOf s.cfg.icache a, valid := true }

/-- DREAD (41_cache.md R120). -/
def execDread (a : Addr) (s : State) : Host.Outcome State Fault Refusal :=
  .next (whenRunning (dataAccess readLine a) s)

/-- DWRITE (41_cache.md R125). -/
def execDwrite (a : Addr) (s : State) : Host.Outcome State Fault Refusal :=
  .next (whenRunning (dataAccess writeLine a) s)

/-- IFETCH (41_cache.md R127): no unaligned handling (20_memory.md R60). -/
def execIfetch (a : Addr) (s : State) : Host.Outcome State Fault Refusal :=
  .next (whenRunning (fun t => fetchLine a (count .iacc 1 t)) s)

end Sys2Proof.Machine
end

