-- ==== Sys2Proof/Machine/Control.lean ====
section
/-! DEFINITION. The control operations RESET, RDCTR and RDSTAT (43_control.md). -/

namespace Sys2Proof.Machine

/-- RESET acts in every state and produces no response (43_control.md R160). -/
def execReset (s : State) : Host.Outcome State Fault Refusal := .next (initialise (quiet s))

/-- RDCTR before the first RESET: an unspecified response, and NOT_READY (60_exceptions.md R176; U6; log 8). -/
def readCounterNotReady (s : State) : State :=
  raise .notReady { respond (Config.freeResponse s.draws) s with draws := s.draws + 1 }

/-- RDCTR: the counter's value, while a fault is latched too (43_control.md R161; 60_exceptions.md R176, R177). -/
def execRdctr (sel : Counter) (s : State) : Host.Outcome State Fault Refusal :=
  if s.status.ready = false then .next (readCounterNotReady s) else .next (respond (s.ctr sel) s)

/-- RDSTAT: the status register, in every state (43_control.md R162). -/
def execRdstat (s : State) : Host.Outcome State Fault Refusal := .next (respond (Status.response s.status) s)

end Sys2Proof.Machine
end

