-- ==== Sys2Proof/Machine/Hazard.lean ====
section
/-! DEFINITION. The HazardTracker operations RECORD and CHECK (40_hazard.md). -/

namespace Sys2Proof.Machine

/-- The context `hz.prev` holds after a RECORD is accepted: the old current context, unless that is still
uninitialized (40_hazard.md R110). -/
def demoted (s : State) : Context := if s.cur.kind = .uninitialized then s.prev else s.cur

/-- RECORD's assignments (40_hazard.md R110). -/
def record (dest src1 src2 : RegSlot) (kind : Kind) (s : State) : State :=
  if s.status.armed = true then raise .recordWithoutCheck s
  else setArmed true
    { s with prev := demoted s, cur := { dest := dest, src1 := src1, src2 := src2, kind := kind } }

/-- The hazard condition: the previous context is a memory read whose destination slot is a source slot of the current
one (40_hazard.md R111). Slots are compared as values, `none` included (R112). -/
def loadUse (prev cur : Context) : Bool :=
  prev.kind == .memoryRead && (prev.dest == cur.src1 || prev.dest == cur.src2)

/-- CHECK's assignments (40_hazard.md R111). -/
def check (s : State) : State :=
  if s.status.armed = false then raise .checkWithoutRecord s
  else setArmed false (if loadUse s.prev s.cur then count .haz 1 s else s)

/-- RECORD (40_hazard.md R110). A term that carries the kind `Uninitialized` is no command: it is the illegal operand of
30_encoding.md R87, which is raised in every state (60_exceptions.md R174; log 12). -/
def execRecord (dest src1 src2 : RegSlot) (kind : Kind) (s : State) : Host.Outcome State Fault Refusal :=
  if kind.recordable then .next (whenRunning (record dest src1 src2 kind) s)
  else .next (raise .illegalOperand (quiet s))

/-- CHECK (40_hazard.md R111). -/
def execCheck (s : State) : Host.Outcome State Fault Refusal := .next (whenRunning check s)

end Sys2Proof.Machine
end

