-- ==== Sys2Proof/Machine/Dispatch.lean ====
section
/-! DEFINITION. One arm per command, each a direct call of its meaning. -/

namespace Sys2Proof.Machine

/-- The effect of one decoded command (60_exceptions.md R176). -/
def exec (i : Instr) (s : State) : Host.Outcome State Fault Refusal :=
  match i with
  | .reset => Sys2Proof.Machine.execReset s
  | .record dest src1 src2 kind => Sys2Proof.Machine.execRecord dest src1 src2 kind s
  | .check => Sys2Proof.Machine.execCheck s
  | .dread addr => Sys2Proof.Machine.execDread addr s
  | .dwrite addr => Sys2Proof.Machine.execDwrite addr s
  | .ifetch addr => Sys2Proof.Machine.execIfetch addr s
  | .btaken pc tgt => Sys2Proof.Machine.execBtaken pc tgt s
  | .bntaken pc tgt => Sys2Proof.Machine.execBntaken pc tgt s
  | .rdctr sel => Sys2Proof.Machine.execRdctr sel s
  | .rdstat => Sys2Proof.Machine.execRdstat s

end Sys2Proof.Machine
end

