-- ==== Sys2Proof/Machine/Port.lean ====
section
/-! DEFINITION. The boundary's inputs (30_encoding.md R81): taking the next event the host presents, and what the block
does with each. -/

namespace Sys2Proof.Machine

/-- The next event on the inputs, if the host presents one (20_memory.md R64). -/
def nextInput (s : State) : Option Input := s.inputs.head?

/-- The state with that event taken off the inputs. -/
def takeInput (s : State) : State := { s with inputs := s.inputs.tail }

/-- The state with a command word presented before everything else. -/
def present (w : CmdWord) (s : State) : State := { s with inputs := .cmd w :: s.inputs }

/-- How the block treats an accepted word: the two decoding faults in every state, otherwise the command
(60_exceptions.md R176). -/
def acceptWord (w : CmdWord) (s : State) : Host.Outcome State Fault Refusal :=
  match decode w with
  | .illegalOpcode => .next (raise .illegalOpcode (quiet s))
  | .illegalOperand => .next (raise .illegalOperand (quiet s))
  | .cmd i => exec i s

/-- What one event does: nothing while `cmd_valid` is 0 (70_reset_and_hazards.md R192; log 5), a command
(60_exceptions.md R176), or the hardware reset (70_reset_and_hazards.md R190). -/
def acceptInput (e : Option Input) (s : State) : Host.Outcome State Fault Refusal :=
  match e with
  | none => .next (quiet s)
  | some (.cmd w) => acceptWord w s
  | some .rst => .next (hardReset s)

end Sys2Proof.Machine
end

