-- ==== Sys2Proof/Machine/Step.lean ====
section
/-! DEFINITION. One step: the next event the host presents, handled to completion (00_scope.md R3). -/

namespace Sys2Proof.Machine

/-- One atomic step (20_memory.md R64). -/
def step (s : State) : Host.Outcome State Fault Refusal := acceptInput (nextInput s) (takeInput s)

/-- The state whose next event is the command word that `nbits` and `w` give in the opcode table's numbering (logs 3,
13). -/
def State.withFetchWord (s : State) (nbits w : Nat) : State := present (tableWord nbits w) s

end Sys2Proof.Machine
end

