-- ==== Sys2Proof/Machine/HostSide.lean ====
section
/-! DEFINITION. What the spec says of the host's use of the block: the pseudo-commands (30_encoding.md R94), the
translation of one instruction of the host's stream (R95), and the numbers the host reports (43_control.md R163). -/

namespace Sys2Proof.Machine

/-- The pseudo-command `retire` (30_encoding.md R94). -/
def retire (dest src1 src2 : RegSlot) (kind : Kind) : List Instr := [.record dest src1 src2 kind, .check]

/-- The pseudo-command `report`: every counter in selector order, then the status (30_encoding.md R94). DESIGN CHOICE
(log 20): 92_eei_decisions.md D26 words it as the fourteen `rdctr` alone, and R94 is followed. Safe for steps, which
see no pseudo-command. -/
def report : List Instr := Counter.all.map .rdctr ++ [.rdstat]

/-- A memory access of one of the host's instructions, with its effective address (30_encoding.md R95). -/
inductive MemoryAccess where
  | load (a : Addr)
  | store (a : Addr)
  deriving DecidableEq, Repr

/-- The resolved branch of one of the host's instructions: taken to `tgt`, or not taken with the second address the
host passes (30_encoding.md R95). -/
inductive BranchOutcome where
  | taken (tgt : Addr)
  | notTaken (tgt : Addr)
  deriving DecidableEq, Repr

/-- What the host knows of one fetched and retired instruction (30_encoding.md R95). DESIGN CHOICE (log 14): the spec
gives no bound on the memory accesses of one instruction, and `memory` lists them, in the order the host reports them:
none, one for a load or a store, a load and a store for an atomic read-modify-write (20_memory.md R65). Safe. -/
structure HostInstr where
  pc : Addr
  dest : RegSlot
  src1 : RegSlot
  src2 : RegSlot
  kind : Kind
  memory : List MemoryAccess
  branch : Option BranchOutcome
  deriving DecidableEq, Repr

/-- The command for a memory access (30_encoding.md R95). -/
def memoryCommand : MemoryAccess → Instr
  | .load a => .dread a
  | .store a => .dwrite a

/-- The command for a resolved branch at `pc`, never both (30_encoding.md R95). -/
def branchCommand (pc : Addr) : BranchOutcome → Instr
  | .taken tgt => .btaken pc tgt
  | .notTaken tgt => .bntaken pc tgt

/-- The commands of one instruction: the fetch, the pair, then its memory commands and its branch command
(30_encoding.md R95; 20_memory.md R65). The order among components is free, and this is the order of program P4 of
95_test_vectors.md (log 14). -/
def hostCommands (h : HostInstr) : List Instr :=
  [.ifetch h.pc] ++ retire h.dest h.src1 h.src2 h.kind ++ h.memory.map memoryCommand
    ++ (h.branch.map (branchCommand h.pc)).toList

/-- A command stream as the inputs carry it (30_encoding.md R80, R81). -/
def presented (l : List Instr) : List Input := l.map fun i => .cmd (encode i)

/-- A miss-to-access ratio as the two counts it is the quotient of: `DMISS / DACC` (43_control.md R163). -/
def dataMissRatio (s : State) : Count × Count := (s.ctr .dmiss, s.ctr .dacc)

/-- `IMISS / IACC` (43_control.md R163). -/
def fetchMissRatio (s : State) : Count × Count := (s.ctr .imiss, s.ctr .iacc)

/-- The numbers of the results log line: `K`, `AT_MISS`, `NT_MISS`, `B1_MISS`, `B2_MISS` (43_control.md R163). -/
def resultsLine (s : State) : List Nat :=
  [s.cfg.k, (s.ctr .atMiss).toNat, (s.ctr .ntMiss).toNat, (s.ctr .b1Miss).toNat, (s.ctr .b2Miss).toNat]

end Sys2Proof.Machine
end

