-- ==== Sys2Proof/Machine/Component.lean ====
section
/-! DEFINITION. The components of the block (00_scope.md R2) as parts of its state and of its commands: which elements
and counters belong to each (10_state.md R31, R37), and which command streams differ only in how the commands of
different components are interleaved (30_encoding.md R95; 70_reset_and_hazards.md R195). -/

namespace Sys2Proof.Machine

/-- The components: the HazardTracker, the two instances of CacheModel, the BranchPredictorBank (00_scope.md R2). -/
inductive Component where
  | hazardTracker
  | dataCache
  | instructionCache
  | branchPredictors
  deriving DecidableEq, Repr

/-- The component a command is an operation of. RESET acts on all of them and RDCTR and RDSTAT read the block out
(43_control.md). -/
def componentOf : Instr → Option Component
  | .reset => none
  | .record _ _ _ _ => some .hazardTracker
  | .check => some .hazardTracker
  | .dread _ => some .dataCache
  | .dwrite _ => some .dataCache
  | .ifetch _ => some .instructionCache
  | .btaken _ _ => some .branchPredictors
  | .bntaken _ _ => some .branchPredictors
  | .rdctr _ => none
  | .rdstat => none

/-- The counters a component increments (10_state.md R31). -/
def countersIn : Component → List Counter
  | .hazardTracker => [.haz]
  | .dataCache => [.dmiss, .unal, .dacc]
  | .instructionCache => [.imiss, .iacc]
  | .branchPredictors => [.atHit, .atMiss, .ntHit, .ntMiss, .b1Hit, .b1Miss, .b2Hit, .b2Miss]

/-- Two states hold the same in the elements, other than counters, that only a component's commands and RESET write
(10_state.md R37). -/
def SameElements (k : Component) (s t : State) : Prop :=
  match k with
  | .hazardTracker => s.cur = t.cur ∧ s.prev = t.prev ∧ s.status.armed = t.status.armed
  | .dataCache => s.dline = t.dline
  | .instructionCache => s.iline = t.iline
  | .branchPredictors => s.atTgt = t.atTgt ∧ s.b1 = t.b1 ∧ s.b2 = t.b2

/-- Two states hold the same in a component: its elements and its counters. -/
abbrev SameIn (k : Component) (s t : State) : Prop := SameElements k s t ∧ ∀ c ∈ countersIn k, s.ctr c = t.ctr c

/-- What a command of a component may read beside the component: the configuration, and the two status fields that
every command reads (10_state.md R37). The draw counter is the model's own (log 9). -/
abbrev SameShared (s t : State) : Prop :=
  s.cfg = t.cfg ∧ s.status.ready = t.status.ready ∧ s.status.fault = t.status.fault ∧ s.draws = t.draws

/-- The commands of one component in a stream, in their order. -/
def commandsOf (k : Component) (l : List Instr) : List Instr := l.filter fun i => componentOf i == some k

/-- Two streams of component commands that give every component the same commands in the same order
(70_reset_and_hazards.md R195). -/
abbrev SameInterleaved (l m : List Instr) : Prop :=
  (∀ i ∈ l, componentOf i ≠ none) ∧ (∀ i ∈ m, componentOf i ≠ none) ∧ ∀ k, commandsOf k l = commandsOf k m

end Sys2Proof.Machine
end

