-- ==== Sys2Proof/Safety.lean ====
section
/-! DEFINITION. What counts as a legal state and a well-behaved run, in the terms the statements use. -/

namespace Sys2Proof.Machine

/-- The block is ready and no fault is latched: a command acts (60_exceptions.md R176). -/
abbrev State.Running (s : State) : Prop := s.status.ready = true ∧ s.status.fault = .none

/-- Every counter can still be incremented by `n` within 64 bits (93_implementation_defined.md U1). -/
abbrev State.Headroom (s : State) (n : Nat) : Prop := ∀ c, (s.ctr c).toNat + n < 2 ^ 64

/-- Counter `c` went up by `n` from `s` to `t`, wherever the spec gives the sum (10_state.md R32): nothing is said once
it passes 2^64 - 1. -/
abbrev CountedUp (s t : State) (c : Counter) (n : Nat) : Prop :=
  (s.ctr c).toNat + n < 2 ^ 64 → (t.ctr c).toNat = (s.ctr c).toNat + n

/-- What every state the block can be in satisfies: the configuration is well formed (00_scope.md R8); the arrays are
canonical and tags fit their width (10_state.md R26 to R30); and the status register agrees with the HazardTracker
(10_state.md R33; 40_hazard.md R110, R111; 60_exceptions.md R175, R178). -/
structure State.Inv (s : State) : Prop where
  config : configOk s.cfg = true
  dlines : Table.Canonical (dlineReset s.cfg) s.cfg.dcache.rows s.dline
  dtags : ∀ e ∈ s.dline, e.2.tag.toNat < 2 ^ tagBits s.cfg.dcache
  ilines : Table.Canonical (ilineReset s.cfg) s.cfg.icache.rows s.iline
  itags : ∀ e ∈ s.iline, e.2.tag.toNat < 2 ^ tagBits s.cfg.icache
  targets : Table.Canonical s.cfg.tgtReset (predictorSize s.cfg) s.atTgt
  oneBit : Table.Canonical (b1Reset s.cfg) (predictorSize s.cfg) s.b1
  twoBit : Table.Canonical (b2Reset s.cfg) (predictorSize s.cfg) s.b2
  armed : s.status.armed = true → s.status.ready = true ∧ s.cur.kind ≠ .uninitialized
  previous : s.status.ready = true → s.prev.kind ≠ .uninitialized → s.cur.kind ≠ .uninitialized
  notReady : s.status.fault = .notReady → s.status.ready = false
  checkFault : s.status.fault = .checkWithoutRecord → s.status.ready = true ∧ s.status.armed = false
  recordFault : s.status.fault = .recordWithoutCheck → s.status.ready = true ∧ s.status.armed = true

/-- The four strategies' scores agree (42_branch.md R152 (a), (b)): complementarity of always-taken and never-taken,
and the same number of branches scored by each strategy. Nothing is said of a block that is not ready. -/
abbrev State.ScoresBalanced (s : State) : Prop :=
  s.status.ready = true →
    s.ctr .atHit = s.ctr .ntMiss ∧ s.ctr .atMiss = s.ctr .ntHit ∧
    (s.ctr .b1Hit).toNat + (s.ctr .b1Miss).toNat = (s.ctr .atHit).toNat + (s.ctr .atMiss).toNat ∧
    (s.ctr .b2Hit).toNat + (s.ctr .b2Miss).toNat = (s.ctr .atHit).toNat + (s.ctr .atMiss).toNat

/-- The pairing duty of a command stream: RECORD, CHECK, RECORD, ... (70_reset_and_hazards.md R198), `armed` saying
whether a RECORD is pending; RESET drops it (43_control.md R160). -/
def paired : Bool → List Instr → Bool
  | _, [] => true
  | armed, .record _ _ _ kind :: l => !armed && kind.recordable && paired true l
  | armed, .check :: l => armed && paired false l
  | _, .reset :: l => paired false l
  | armed, .dread _ :: l => paired armed l
  | armed, .dwrite _ :: l => paired armed l
  | armed, .ifetch _ :: l => paired armed l
  | armed, .btaken _ _ :: l => paired armed l
  | armed, .bntaken _ _ :: l => paired armed l
  | armed, .rdctr _ :: l => paired armed l
  | armed, .rdstat :: l => paired armed l

/-- The state after the last command of a completed run of a well-formed stream (70_reset_and_hazards.md R201). -/
abbrev State.CompletedRun (s : State) : Prop :=
  s.status.ready = true ∧ s.status.fault = .none ∧ s.status.armed = false

/-- The load-use hazards of a sequence of retired instructions (40_hazard.md R113): how many of them read, as a source,
the destination of a memory read immediately before them. -/
def loadUses : List Context → Nat
  | a :: b :: l =>
    (if a.kind = .memoryRead ∧ (a.dest = b.src1 ∨ a.dest = b.src2) then 1 else 0) + loadUses (b :: l)
  | _ => 0

/-- The contexts that a stream's RECORDs carry, in their order (40_hazard.md R110). -/
def recorded : List Instr → List Context
  | [] => []
  | .record dest src1 src2 kind :: l => { dest := dest, src1 := src1, src2 := src2, kind := kind } :: recorded l
  | .reset :: l => recorded l
  | .check :: l => recorded l
  | .dread _ :: l => recorded l
  | .dwrite _ :: l => recorded l
  | .ifetch _ :: l => recorded l
  | .btaken _ _ :: l => recorded l
  | .bntaken _ _ :: l => recorded l
  | .rdctr _ :: l => recorded l
  | .rdstat :: l => recorded l

/-- How many BTAKEN commands a stream holds (42_branch.md R152). -/
def takenIn : List Instr → Nat
  | [] => 0
  | .btaken _ _ :: l => takenIn l + 1
  | .reset :: l => takenIn l
  | .record _ _ _ _ :: l => takenIn l
  | .check :: l => takenIn l
  | .dread _ :: l => takenIn l
  | .dwrite _ :: l => takenIn l
  | .ifetch _ :: l => takenIn l
  | .bntaken _ _ :: l => takenIn l
  | .rdctr _ :: l => takenIn l
  | .rdstat :: l => takenIn l

/-- How many BNTAKEN commands a stream holds (42_branch.md R152). -/
def notTakenIn : List Instr → Nat
  | [] => 0
  | .bntaken _ _ :: l => notTakenIn l + 1
  | .reset :: l => notTakenIn l
  | .record _ _ _ _ :: l => notTakenIn l
  | .check :: l => notTakenIn l
  | .dread _ :: l => notTakenIn l
  | .dwrite _ :: l => notTakenIn l
  | .ifetch _ :: l => notTakenIn l
  | .btaken _ _ :: l => notTakenIn l
  | .rdctr _ :: l => notTakenIn l
  | .rdstat :: l => notTakenIn l

/-! ## What the rules' tables say, row by row -/

/-- The table of 41_cache.md R122: `valid`, `dirty` and whether the tag matches, before a read line access, to the
increment of `DMISS`. -/
def readMisses (l : DLine) (tag : BitVec 32) : Nat :=
  match l.valid, l.dirty, decide (l.tag = tag) with
  | false, _, _ => 1
  | true, false, false => 1
  | true, true, false => 2
  | true, false, true => 0
  | true, true, true => 0

/-- The table of 41_cache.md R124, for a write line access. -/
def writeMisses (l : DLine) (tag : BitVec 32) : Nat :=
  match l.valid, l.dirty, decide (l.tag = tag) with
  | false, _, _ => 0
  | true, false, false => 1
  | true, true, false => 1
  | true, _, true => 0

/-- The seven commands that a latched fault freezes (60_exceptions.md R177): all but RESET, RDCTR and RDSTAT. -/
def frozenByFault : Instr → Bool
  | .reset => false
  | .record _ _ _ _ => true
  | .check => true
  | .dread _ => true
  | .dwrite _ => true
  | .ifetch _ => true
  | .btaken _ _ => true
  | .bntaken _ _ => true
  | .rdctr _ => false
  | .rdstat => false

/-- What a word latches when no fault is latched, in the priority of 60_exceptions.md R179: illegal opcode, illegal
operand, NOT_READY, then the protocol faults of RECORD and CHECK (R178). -/
def latchedBy (d : Decoded) (ready armed : Bool) : FaultCode :=
  match d with
  | .illegalOpcode => .illegalOpcode
  | .illegalOperand => .illegalOperand
  | .cmd .reset => .none
  | .cmd .rdstat => .none
  | .cmd .check => if ready = false then .notReady else if armed = false then .checkWithoutRecord else .none
  | .cmd (.record _ _ _ _) => if ready = false then .notReady else if armed = true then .recordWithoutCheck else .none
  | .cmd (.dread _) => if ready = false then .notReady else .none
  | .cmd (.dwrite _) => if ready = false then .notReady else .none
  | .cmd (.ifetch _) => if ready = false then .notReady else .none
  | .cmd (.btaken _ _) => if ready = false then .notReady else .none
  | .cmd (.bntaken _ _) => if ready = false then .notReady else .none
  | .cmd (.rdctr _) => if ready = false then .notReady else .none

/-- The counters a command may change: the column "incremented by" of 10_state.md R31; RESET zeroes them all. -/
def countersOf : Instr → List Counter
  | .reset => Counter.all
  | .record _ _ _ _ => []
  | .check => [.haz]
  | .dread _ => [.dmiss, .unal, .dacc]
  | .dwrite _ => [.dmiss, .unal, .dacc]
  | .ifetch _ => [.imiss, .iacc]
  | .btaken _ _ => [.atHit, .ntMiss, .b1Hit, .b1Miss, .b2Hit, .b2Miss]
  | .bntaken _ _ => [.atMiss, .ntHit, .b1Hit, .b1Miss, .b2Hit, .b2Miss]
  | .rdctr _ => []
  | .rdstat => []

/-- A strategy scored a hit: its hit counter went up by one, its miss counter stayed (42_branch.md R140). -/
abbrev ScoredHit (s t : State) (hit miss : Counter) : Prop := CountedUp s t hit 1 ∧ t.ctr miss = s.ctr miss

/-- A strategy scored a miss (42_branch.md R140). -/
abbrev ScoredMiss (s t : State) (hit miss : Counter) : Prop := CountedUp s t miss 1 ∧ t.ctr hit = s.ctr hit

end Sys2Proof.Machine
end

