-- ==== Sys2Proof/Certificates/Slice0/Obligations.lean ====
section
/-! DEFINITION. The statements about the model, each from the numbered rules of spec/. What rests on a choice of the
model's own says so and names its log entry. -/

open Sys2Proof Sys2Proof.Machine

/-! ## Encoding -/

/-- Words written out in 30_encoding.md (worked encodings) and 95_test_vectors.md (section 4), one of each format at
least, decode to the commands they stand for. -/
def Obligations.WorkedWordsDecode : Prop :=
  decode 0x10000000000000000#68 = .cmd .reset ∧
  decode 0x200068A4000000000#68 = .cmd (.record (.reg 8#5) (.reg 9#5) .none .memoryRead) ∧
  decode 0x30000000000000000#68 = .cmd .check ∧
  decode 0x50000100D00000000#68 = .cmd (.dwrite 0x100D#32) ∧
  decode 0x70040010000400080#68 = .cmd (.btaken 0x400100#32 0x400080#32) ∧
  decode 0x90000000D00000000#68 = .cmd (.rdctr .b2Miss) ∧
  decode 0x200048A4000000000#68 = .illegalOperand ∧
  decode 0xCFFFFFFFFFFFFFFFF#68 = .illegalOpcode

/-- Decode and encode agree: the word of every well-formed command decodes to it, with every operand at every value
(30_encoding.md R83 to R89, R92). -/
def Obligations.DecodeOfEncodeIsTheCommand : Prop :=
  ∀ i : Instr, i.wellFormed = true → decode (encode i) = .cmd i

/-- The other direction: a word that decodes to a command is that command's one word, so no bit of it is dropped
(30_encoding.md R85, R90). -/
def Obligations.EncodeOfDecodeIsTheWord : Prop :=
  ∀ (w : CmdWord) (i : Instr), decode w = .cmd i → i.wellFormed = true ∧ encode i = w

/-- The complete list of illegal words of 30_encoding.md R90, by bits of the word as R83 numbers them: a reserved
opcode whatever the other bits are; under a listed opcode, a "zero" bit set, a slot `0b0iiiii` with `i != 0`, a kind
`0b00` or `0b11`, a selector 14 or 15. Every other word is a command. -/
def Obligations.IllegalWordsAreExactlyTheListed : Prop :=
  ∀ w : CmdWord,
    (decode w = .illegalOpcode ↔ w.extractLsb' 64 4 = 0x0#4 ∨ 0xB#4 ≤ w.extractLsb' 64 4) ∧
    (decode w = .illegalOperand ↔
      ((w.extractLsb' 64 4 = 0x1#4 ∨ w.extractLsb' 64 4 = 0x3#4 ∨ w.extractLsb' 64 4 = 0xA#4) ∧
        (w.extractLsb' 32 32 ≠ 0#32 ∨ w.extractLsb' 0 32 ≠ 0#32)) ∨
      (w.extractLsb' 64 4 = 0x2#4 ∧
        (w.extractLsb' 52 12 ≠ 0#12 ∨ w.extractLsb' 0 32 ≠ 0#32 ∨
          w.extractLsb' 50 2 = 0b00#2 ∨ w.extractLsb' 50 2 = 0b11#2 ∨
          (w.extractLsb' 44 6 ≠ 0#6 ∧ w.extractLsb' 44 6 < 32#6) ∨
          (w.extractLsb' 38 6 ≠ 0#6 ∧ w.extractLsb' 38 6 < 32#6) ∨
          (w.extractLsb' 32 6 ≠ 0#6 ∧ w.extractLsb' 32 6 < 32#6))) ∨
      ((w.extractLsb' 64 4 = 0x4#4 ∨ w.extractLsb' 64 4 = 0x5#4 ∨ w.extractLsb' 64 4 = 0x6#4) ∧
        w.extractLsb' 0 32 ≠ 0#32) ∨
      (w.extractLsb' 64 4 = 0x9#4 ∧
        (w.extractLsb' 36 28 ≠ 0#28 ∨ w.extractLsb' 0 32 ≠ 0#32 ∨
          w.extractLsb' 32 4 = 14#4 ∨ w.extractLsb' 32 4 = 15#4)))

/-! ## Steps -/

/-- A step runs the decoded command: when the next input is a word that decodes to `i`, the step is `exec i` on the
state with that input taken (60_exceptions.md R176; the input list is the model's, log 3). -/
def Obligations.StepRunsTheDecodedCommand : Prop :=
  ∀ (s : State) (w : CmdWord) (rest : List Input) (i : Instr),
    s.inputs = .cmd w :: rest → decode w = .cmd i → step s = exec i { s with inputs := rest }

/-- A word that decodes to no command latches its code if no fault is latched, in every state, and changes nothing
else (60_exceptions.md R171 to R174; that the response port is empty afterwards is log 4). -/
def Obligations.IllegalWordOnlyLatchesItsCode : Prop :=
  ∀ (s : State) (w : CmdWord) (rest : List Input), s.inputs = .cmd w :: rest →
    (decode w = .illegalOpcode → step s = .next { s with
      inputs := rest, rsp := none, status := { s.status with
        fault := if s.status.fault = .none then .illegalOpcode else s.status.fault } }) ∧
    (decode w = .illegalOperand → step s = .next { s with
      inputs := rest, rsp := none, status := { s.status with
        fault := if s.status.fault = .none then .illegalOperand else s.status.fault } })

/-- While nothing is presented the block waits (70_reset_and_hazards.md R192). That a step is then taken at all, with
an empty response port, is the model's choice, log 5. -/
def Obligations.WaitingChangesNothing : Prop :=
  ∀ s : State, s.inputs = [] → step s = .next { s with rsp := none }

/-- The hardware reset leaves the not-ready status (70_reset_and_hazards.md R190) and the configuration (R193). The
model's own: that it clears a latched fault too is the model's reading of R190 against 60_exceptions.md R171 (log 7); the
rest of what the host presents is still to come (log 3); the response port is empty (log 4). Of the other elements
nothing is stated. -/
def Obligations.HardwareResetIsNotReady : Prop :=
  ∀ (s : State) (rest : List Input), s.inputs = .rst :: rest →
    ∃ t, step s = .next t ∧ t.status = { armed := false, ready := false, fault := .none } ∧
      t.cfg = s.cfg ∧ t.inputs = rest ∧ t.rsp = none

/-- Every step keeps the state invariant: canonical arrays, tags that fit, a status register that agrees with the
HazardTracker. -/
def Obligations.EveryStepKeepsTheInvariant : Prop :=
  ∀ s t : State, s.Inv → step s = .next t → t.Inv

/-- The state invariant holds right after reset, in every well-formed configuration (00_scope.md R8; log 2), and so at
the model's reset state, whose configuration is the model's choice (log 1). -/
def Obligations.ResetMeetsTheInvariant : Prop :=
  (∀ cfg : Config, configOk cfg = true → (State.afterReset cfg).Inv) ∧ State.reset.Inv

/-- No step changes the configuration (70_reset_and_hazards.md R193), and every step takes exactly the next input
(20_memory.md R64; the input list is the model's, log 3). -/
def Obligations.NoStepChangesTheConfiguration : Prop :=
  ∀ s t : State, step s = .next t → t.cfg = s.cfg ∧ t.inputs = s.inputs.tail

/-- Every step completes with a next state, whatever the state and whatever is presented: the operations are total
(60_exceptions.md R170; 70_reset_and_hazards.md R200). The model's own: that a step is taken at all while nothing is
presented (log 5), and that a command whose sum passes 2^64 - 1 completes, where U1 lets a model refuse (log 6). -/
def Obligations.EveryStepAnswersANextState : Prop :=
  ∀ s : State, ∃ t, step s = .next t

/-! ## Faults -/

/-- A latched fault freezes the block: until RESET (or the hardware reset) no step changes any element of it, whatever
word comes (60_exceptions.md R171, R177, R184). Only the response port and the model's draw counter may differ. -/
def Obligations.LatchedFaultFreezesTheBlock : Prop :=
  ∀ s t : State, s.status.fault ≠ .none → step s = .next t →
    (∀ rest, s.inputs ≠ .rst :: rest) →
    (∀ w rest, s.inputs = .cmd w :: rest → decode w ≠ .cmd .reset) →
    t = { s with inputs := s.inputs.tail, rsp := t.rsp, draws := t.draws }

/-- While a fault is latched, RECORD, CHECK, DREAD, DWRITE, IFETCH, BTAKEN and BNTAKEN change nothing, increment nothing
and raise nothing (60_exceptions.md R177); they drive no response (30_encoding.md R82). -/
def Obligations.FrozenCommandsDoNothing : Prop :=
  ∀ (i : Instr) (s : State), i.wellFormed = true → frozenByFault i = true → s.status.fault ≠ .none →
    exec i s = .next { s with rsp := none }

/-- Before the first RESET every well-formed command but RESET and RDSTAT raises NOT_READY, which the latch takes if it
holds no code, and changes nothing else (60_exceptions.md R175; the latch: R171, R172). The response port is left to the
command (R176). -/
def Obligations.NotReadyCommandsRaiseNotReady : Prop :=
  ∀ (i : Instr) (s : State), i.wellFormed = true → i ≠ .reset → i ≠ .rdstat → s.status.ready = false →
    ∃ t, exec i s = .next t ∧
      t = { s with
        status := { s.status with fault := if s.status.fault = .none then .notReady else s.status.fault },
        rsp := t.rsp, draws := t.draws } ∧
      (frozenByFault i = true → t.rsp = none)

/-- RDCTR before the first RESET responds with some value, of which nothing is stated, and raises NOT_READY
(60_exceptions.md R176; log 8). -/
def Obligations.RdctrBeforeResetRespondsAndFaults : Prop :=
  ∀ (c : Counter) (s : State), s.status.ready = false →
    ∃ v, exec (.rdctr c) s = .next { s with
      rsp := some v, draws := s.draws + 1, status := { s.status with
        fault := if s.status.fault = .none then .notReady else s.status.fault } }

/-- What one word latches when no fault is latched, in the priority of 60_exceptions.md R179 (codes: R173 to R175,
R178). -/
def Obligations.LatchedCodeFollowsThePriority : Prop :=
  ∀ (s t : State) (w : CmdWord) (rest : List Input),
    s.inputs = .cmd w :: rest → s.status.fault = .none → step s = .next t →
    t.status.fault = latchedBy (decode w) s.status.ready s.status.armed

/-- A command that raises a fault has no partial effect: it changes the latch and no other element (60_exceptions.md
R172, R183). Only the response port and the model's draw counter may differ. -/
def Obligations.FaultingCommandHasNoPartialEffect : Prop :=
  ∀ s t : State, step s = .next t → s.status.fault = .none → t.status.fault ≠ .none →
    t = { s with
      inputs := s.inputs.tail, status := { s.status with fault := t.status.fault }, rsp := t.rsp, draws := t.draws }

/-- A stream that keeps the pairing of RECORD and CHECK raises no fault (70_reset_and_hazards.md R198;
60_exceptions.md R170). -/
def Obligations.PairedStreamRaisesNoFault : Prop :=
  ∀ (s : State) (l : List Instr), s.Running → paired s.status.armed l = true → s.inputs = presented l →
    ∃ t, Sys2Proof.core.run l.length s = .next t ∧ t.Running ∧ t.inputs = []

/-- The host's translation of its instructions (30_encoding.md R95), in the order and with the memory accesses that the
model gives them (log 14), keeps the pairing of RECORD and CHECK (70_reset_and_hazards.md R198). -/
def Obligations.HostTranslationIsPaired : Prop :=
  ∀ l : List HostInstr, (∀ h ∈ l, h.kind.recordable = true) → paired false (l.flatMap hostCommands) = true

/-! ## Counters and components -/

/-- Counters only go up between two resets, by at most 4 a step, while no sum passes 2^64 - 1 (10_state.md R32;
93_implementation_defined.md U1). -/
def Obligations.CountersOnlyGoUp : Prop :=
  ∀ (s t : State) (c : Counter), s.Headroom 4 → step s = .next t →
    (∀ rest, s.inputs ≠ .rst :: rest) →
    (∀ w rest, s.inputs = .cmd w :: rest → decode w ≠ .cmd .reset) →
    (s.ctr c).toNat ≤ (t.ctr c).toNat ∧ (t.ctr c).toNat ≤ (s.ctr c).toNat + 4

/-- A command changes only the counters that the column "incremented by" of 10_state.md R31 lists for it, RESET
aside. -/
def Obligations.CommandsChangeOnlyTheirCounters : Prop :=
  ∀ (i : Instr) (s t : State) (c : Counter), exec i s = .next t → c ∉ countersOf i → t.ctr c = s.ctr c

/-- Each element is written only by the commands that 10_state.md R37 lists for it: the two cache models and the
strategies never write one another's arrays (20_memory.md R66; 10_state.md R30). -/
def Obligations.ElementsAreWrittenOnlyByTheirCommands : Prop :=
  ∀ (i : Instr) (s t : State), exec i s = .next t → i ≠ .reset →
    (((∀ d a b k, i ≠ .record d a b k) → t.cur = s.cur ∧ t.prev = s.prev) ∧
      ((∀ a, i ≠ .dread a) → (∀ a, i ≠ .dwrite a) → t.dline = s.dline) ∧
      ((∀ a, i ≠ .ifetch a) → t.iline = s.iline) ∧
      ((∀ p x, i ≠ .btaken p x) → t.atTgt = s.atTgt) ∧
      ((∀ p x, i ≠ .btaken p x) → (∀ p x, i ≠ .bntaken p x) → t.b1 = s.b1 ∧ t.b2 = s.b2) ∧
      ((∀ d a b k, i ≠ .record d a b k) → i ≠ .check → t.status.armed = s.status.armed) ∧
      t.status.ready = s.status.ready)

/-! ## HazardTracker -/

/-- RECORD (40_hazard.md R110): the operands become the current context, the old current context the previous one unless
it is uninitialized, `armed` is set, no counter changes; with `armed` already set it raises RECORD_WITHOUT_CHECK and
changes nothing else. -/
def Obligations.RecordResult : Prop :=
  ∀ (d a b : RegSlot) (k : Kind) (s : State), s.Running → k.recordable = true →
    (s.status.armed = false → exec (.record d a b k) s = .next { s with
      prev := (if s.cur.kind = .uninitialized then s.prev else s.cur)
      cur := { dest := d, src1 := a, src2 := b, kind := k }
      status := { s.status with armed := true }
      rsp := none }) ∧
    (s.status.armed = true → exec (.record d a b k) s = .next { s with
      status := { s.status with fault := .recordWithoutCheck }
      rsp := none })

/-- The model's choice, log 12: while no fault is latched, running a term of RECORD that carries the kind
`Uninitialized`, which 30_encoding.md R87 reserves, raises ILLEGAL_OPERAND, changes nothing else and leaves the response
port empty (log 4). -/
def Obligations.RecordOfUninitializedIsIllegal : Prop :=
  ∀ (d a b : RegSlot) (s : State), s.status.fault = .none →
    exec (.record d a b .uninitialized) s = .next { s with
      status := { s.status with fault := .illegalOperand }
      rsp := none }

/-- CHECK (40_hazard.md R111): HAZ goes up by exactly 1 if the previous context is a memory read whose destination slot
is a source slot of the current one and stays otherwise, `armed` is cleared, nothing else changes; with `armed` clear it
raises CHECK_WITHOUT_RECORD and changes nothing else. -/
def Obligations.CheckResult : Prop :=
  ∀ s : State, s.Running →
    (s.status.armed = true → ∃ t, exec .check s = .next t ∧
      t = { s with
        ctrs := t.ctrs, draws := t.draws, status := { s.status with armed := false }, rsp := none } ∧
      CountedUp s t .haz
        (if s.prev.kind = .memoryRead ∧ (s.prev.dest = s.cur.src1 ∨ s.prev.dest = s.cur.src2) then 1 else 0) ∧
      ∀ c, c ≠ .haz → t.ctr c = s.ctr c) ∧
    (s.status.armed = false → exec .check s = .next { s with
      status := { s.status with fault := .checkWithoutRecord }
      rsp := none })

/-- Slots are compared as values (40_hazard.md R112): a memory read recorded without a destination counts a hazard
against an unused source slot, and register 0 is matched like any other and never by `none` (10_state.md R20). -/
def Obligations.SlotsAreComparedAsValues : Prop :=
  ∀ (s : State) (i j : BitVec 5), s.Running → s.status.armed = true → s.prev.kind = .memoryRead →
    (s.ctr .haz).toNat + 1 < 2 ^ 64 →
    (s.prev.dest = .none → s.cur.src2 = .none →
      ∃ t, exec .check s = .next t ∧ (t.ctr .haz).toNat = (s.ctr .haz).toNat + 1) ∧
    (s.prev.dest = .reg i → s.cur.src1 = .reg j → s.cur.src2 = .none →
      ∃ t, exec .check s = .next t ∧ (t.ctr .haz).toNat = (s.ctr .haz).toNat + (if i = j then 1 else 0))

/-- Over a stream that pairs every RECORD with its CHECK, whatever other commands come between, from the contexts that
RESET leaves, HAZ goes up by the number of recorded instructions that use the destination of a memory read recorded
immediately before them (40_hazard.md R113). -/
def Obligations.HazardCountOfAPairedStream : Prop :=
  ∀ (s : State) (l : List Instr), s.Running → s.status.armed = false →
    s.cur.kind = .uninitialized → s.prev.kind = .uninitialized →
    paired false l = true → Instr.reset ∉ l → s.inputs = presented l →
    (s.ctr .haz).toNat + loadUses (recorded l) < 2 ^ 64 →
    ∃ t, Sys2Proof.core.run l.length s = .next t ∧
      (t.status.armed = false → (t.ctr .haz).toNat = (s.ctr .haz).toNat + loadUses (recorded l))

/-! ## Addresses -/

/-- An address is its tag, row, word in line and byte in word, each in its range (20_memory.md R52 to R55). -/
def Obligations.AddressIsItsFields : Prop :=
  ∀ (g : Geometry) (a : Addr), geometryOk g = true →
    a.toNat = (tagOf g a).toNat * 2 ^ (offBits g + rowBits g) + rowOf g a * 2 ^ offBits g + wordOf g a * 4
        + a.toNat % 4 ∧
      (tagOf g a).toNat < 2 ^ tagBits g ∧ rowOf g a < g.rows ∧ wordOf g a < lineWords g

/-- Two addresses lie in the same line of memory exactly when they have the same tag and the same row
(20_memory.md R54). -/
def Obligations.SameLineIsSameTagAndRow : Prop :=
  ∀ (g : Geometry) (a b : Addr), geometryOk g = true →
    ((tagOf g a = tagOf g b ∧ rowOf g a = rowOf g b) ↔ a >>> offBits g = b >>> offBits g)

/-- The spill address is the next 4-byte-aligned address, modulo 2^32, and, from the last word of a line, the first
byte of the next line: the next row, with the same tag unless the row wraps (20_memory.md R56). -/
def Obligations.SpillIsTheNextLine : Prop :=
  ∀ (g : Geometry) (a : Addr), geometryOk g = true → a.toNat % 4 ≠ 0 →
    (spill a).toNat = (a.toNat + 4 - a.toNat % 4) % 2 ^ 32 ∧
    (spill a).toNat % 4 = 0 ∧
    (wordOf g a = lineWords g - 1 →
      (spill a).toNat % g.lineBytes = 0 ∧
      rowOf g (spill a) = (rowOf g a + 1) % g.rows ∧
      (tagOf g (spill a)).toNat =
        (if rowOf g a + 1 = g.rows then ((tagOf g a).toNat + 1) % 2 ^ tagBits g else (tagOf g a).toNat))

/-- The predictor index is `(pc >> 2) mod 2^K`, below `2^K`, and two pcs share an entry exactly when their bits `K+1 : 2`
agree: bits 1:0 and the bits above do not enter it (20_memory.md R58). -/
def Obligations.IndexIsTheMiddleBits : Prop :=
  ∀ (k : Nat) (p q : Addr), k ≤ 30 →
    predictorIndex k p = p.toNat / 4 % 2 ^ k ∧ predictorIndex k p < 2 ^ k ∧
    (predictorIndex k p = predictorIndex k q ↔ ∀ j, 2 ≤ j → j < k + 2 → p.getLsbD j = q.getLsbD j)

/-! ## CacheModels -/

/-- DREAD that does not spill (41_cache.md R120 to R123): DACC up by 1, UNAL up by 1 for an unaligned address, DMISS up
by the table of R122, the line valid, clean and of the address's tag, everything else as before. -/
def Obligations.DreadWithoutSpill : Prop :=
  ∀ (a : Addr) (s : State), s.Running →
    ¬ (a.toNat % 4 ≠ 0 ∧ wordOf s.cfg.dcache a = lineWords s.cfg.dcache - 1) →
    ∃ t, exec (.dread a) s = .next t ∧
      t = { s with dline := t.dline, ctrs := t.ctrs, draws := t.draws, rsp := none } ∧
      (∀ r, t.dlineAt r =
        if r = rowOf s.cfg.dcache a then { tag := tagOf s.cfg.dcache a, valid := true, dirty := false }
        else s.dlineAt r) ∧
      CountedUp s t .dacc 1 ∧
      CountedUp s t .unal (if a.toNat % 4 = 0 then 0 else 1) ∧
      CountedUp s t .dmiss (readMisses (s.dlineAt (rowOf s.cfg.dcache a)) (tagOf s.cfg.dcache a)) ∧
      ∀ c, c ≠ .dacc → c ≠ .unal → c ≠ .dmiss → t.ctr c = s.ctr c

/-- DREAD that spills (41_cache.md R120 to R123, R126): two line accesses, the second at the spill address on the lines
the first left; DACC and UNAL up by 1 each, DMISS by the table of R122 for each access. -/
def Obligations.DreadWithSpill : Prop :=
  ∀ (a : Addr) (s : State), s.Running →
    a.toNat % 4 ≠ 0 → wordOf s.cfg.dcache a = lineWords s.cfg.dcache - 1 →
    ∃ t, exec (.dread a) s = .next t ∧
      t = { s with dline := t.dline, ctrs := t.ctrs, draws := t.draws, rsp := none } ∧
      (∀ r, t.dlineAt r =
        if r = rowOf s.cfg.dcache (spill a) then
          { tag := tagOf s.cfg.dcache (spill a), valid := true, dirty := false }
        else if r = rowOf s.cfg.dcache a then { tag := tagOf s.cfg.dcache a, valid := true, dirty := false }
        else s.dlineAt r) ∧
      CountedUp s t .dacc 1 ∧
      CountedUp s t .unal 1 ∧
      CountedUp s t .dmiss
        (readMisses (s.dlineAt (rowOf s.cfg.dcache a)) (tagOf s.cfg.dcache a) +
          readMisses
            (if rowOf s.cfg.dcache (spill a) = rowOf s.cfg.dcache a then
              { tag := tagOf s.cfg.dcache a, valid := true, dirty := false }
            else s.dlineAt (rowOf s.cfg.dcache (spill a)))
            (tagOf s.cfg.dcache (spill a))) ∧
      ∀ c, c ≠ .dacc → c ≠ .unal → c ≠ .dmiss → t.ctr c = s.ctr c

/-- DWRITE that does not spill (41_cache.md R123 to R125): as DREAD, with the table of R124, and the line dirty with its
valid bit as it was. -/
def Obligations.DwriteWithoutSpill : Prop :=
  ∀ (a : Addr) (s : State), s.Running →
    ¬ (a.toNat % 4 ≠ 0 ∧ wordOf s.cfg.dcache a = lineWords s.cfg.dcache - 1) →
    ∃ t, exec (.dwrite a) s = .next t ∧
      t = { s with dline := t.dline, ctrs := t.ctrs, draws := t.draws, rsp := none } ∧
      (∀ r, t.dlineAt r =
        if r = rowOf s.cfg.dcache a then
          { tag := tagOf s.cfg.dcache a, valid := (s.dlineAt r).valid, dirty := true }
        else s.dlineAt r) ∧
      CountedUp s t .dacc 1 ∧
      CountedUp s t .unal (if a.toNat % 4 = 0 then 0 else 1) ∧
      CountedUp s t .dmiss (writeMisses (s.dlineAt (rowOf s.cfg.dcache a)) (tagOf s.cfg.dcache a)) ∧
      ∀ c, c ≠ .dacc → c ≠ .unal → c ≠ .dmiss → t.ctr c = s.ctr c

/-- DWRITE that spills (41_cache.md R123 to R126): two write line accesses, the second at the spill address on the lines
the first left. -/
def Obligations.DwriteWithSpill : Prop :=
  ∀ (a : Addr) (s : State), s.Running →
    a.toNat % 4 ≠ 0 → wordOf s.cfg.dcache a = lineWords s.cfg.dcache - 1 →
    ∃ t, exec (.dwrite a) s = .next t ∧
      t = { s with dline := t.dline, ctrs := t.ctrs, draws := t.draws, rsp := none } ∧
      (∀ r, t.dlineAt r =
        if r = rowOf s.cfg.dcache (spill a) then
          { tag := tagOf s.cfg.dcache (spill a), valid := (s.dlineAt r).valid, dirty := true }
        else if r = rowOf s.cfg.dcache a then
          { tag := tagOf s.cfg.dcache a, valid := (s.dlineAt r).valid, dirty := true }
        else s.dlineAt r) ∧
      CountedUp s t .dacc 1 ∧
      CountedUp s t .unal 1 ∧
      CountedUp s t .dmiss
        (writeMisses (s.dlineAt (rowOf s.cfg.dcache a)) (tagOf s.cfg.dcache a) +
          writeMisses
            (if rowOf s.cfg.dcache (spill a) = rowOf s.cfg.dcache a then
              { tag := tagOf s.cfg.dcache a, valid := (s.dlineAt (rowOf s.cfg.dcache a)).valid, dirty := true }
            else s.dlineAt (rowOf s.cfg.dcache (spill a)))
            (tagOf s.cfg.dcache (spill a))) ∧
      ∀ c, c ≠ .dacc → c ≠ .unal → c ≠ .dmiss → t.ctr c = s.ctr c

/-- IFETCH (41_cache.md R127): IACC up by 1; IMISS up by 1 iff the row is invalid or the tag differs; the line valid and
of the address's tag; nothing else changes, for an unaligned address too. -/
def Obligations.IfetchResult : Prop :=
  ∀ (a : Addr) (s : State), s.Running →
    ∃ t, exec (.ifetch a) s = .next t ∧
      t = { s with iline := t.iline, ctrs := t.ctrs, draws := t.draws, rsp := none } ∧
      (∀ r, t.ilineAt r =
        if r = rowOf s.cfg.icache a then { tag := tagOf s.cfg.icache a, valid := true } else s.ilineAt r) ∧
      CountedUp s t .iacc 1 ∧
      CountedUp s t .imiss
        (if (s.ilineAt (rowOf s.cfg.icache a)).valid = true ∧
            (s.ilineAt (rowOf s.cfg.icache a)).tag = tagOf s.cfg.icache a then 0 else 1) ∧
      ∀ c, c ≠ .iacc → c ≠ .imiss → t.ctr c = s.ctr c

/-- A resident line costs nothing: an access to a valid line with its tag adds no miss and leaves the line valid with
that tag, for a read, a write and a fetch (41_cache.md R128 (b)). -/
def Obligations.ResidentLineAddsNoMiss : Prop :=
  ∀ (a : Addr) (s : State), s.Running →
    ((s.dlineAt (rowOf s.cfg.dcache a)).valid = true → (s.dlineAt (rowOf s.cfg.dcache a)).tag = tagOf s.cfg.dcache a →
      a.toNat % 4 = 0 →
      (∃ t, exec (.dread a) s = .next t ∧ t.ctr .dmiss = s.ctr .dmiss ∧
        (t.dlineAt (rowOf s.cfg.dcache a)).valid = true ∧
        (t.dlineAt (rowOf s.cfg.dcache a)).tag = tagOf s.cfg.dcache a) ∧
      (∃ t, exec (.dwrite a) s = .next t ∧ t.ctr .dmiss = s.ctr .dmiss ∧
        (t.dlineAt (rowOf s.cfg.dcache a)).valid = true ∧
        (t.dlineAt (rowOf s.cfg.dcache a)).tag = tagOf s.cfg.dcache a)) ∧
    ((s.ilineAt (rowOf s.cfg.icache a)).valid = true → (s.ilineAt (rowOf s.cfg.icache a)).tag = tagOf s.cfg.icache a →
      ∃ t, exec (.ifetch a) s = .next t ∧ t.ctr .imiss = s.ctr .imiss ∧ ∀ r, t.ilineAt r = s.ilineAt r)

/-- Writes alone, from a state with every data line invalid, cause no miss and leave every line invalid, whatever the
addresses (41_cache.md R124, consequences). -/
def Obligations.WritesAloneNeverMissNorValidate : Prop :=
  ∀ (s : State) (l : List Addr), s.Running → (∀ r, (s.dlineAt r).valid = false) →
    s.inputs = presented (l.map .dwrite) →
    ∃ t, Sys2Proof.core.run l.length s = .next t ∧ t.ctr .dmiss = s.ctr .dmiss ∧
      ∀ r, (t.dlineAt r).valid = false

/-! ## BranchPredictorBank -/

/-- BTAKEN (42_branch.md R140 to R142, R144): always-taken hits and records the target, never-taken misses; no entry
but the pc's changes in any table; nothing outside the bank changes. -/
def Obligations.BtakenResult : Prop :=
  ∀ (pc tgt : Addr) (s : State), s.Running →
    ∃ t, exec (.btaken pc tgt) s = .next t ∧
      t = { s with
        atTgt := t.atTgt, b1 := t.b1, b2 := t.b2, ctrs := t.ctrs, draws := t.draws, rsp := none } ∧
      (∀ j, t.targetAt j = if j = predictorIndex s.cfg.k pc then tgt else s.targetAt j) ∧
      (∀ j, j ≠ predictorIndex s.cfg.k pc → t.b1At j = s.b1At j ∧ t.b2At j = s.b2At j) ∧
      ScoredHit s t .atHit .atMiss ∧ ScoredMiss s t .ntHit .ntMiss ∧
      ∀ c ∈ [Counter.haz, .dmiss, .imiss, .unal, .dacc, .iacc], t.ctr c = s.ctr c

/-- BNTAKEN (42_branch.md R140, R143, R145, R149): always-taken misses and keeps its targets, never-taken hits; no entry
but the pc's changes in any table; nothing outside the bank changes. -/
def Obligations.BntakenResult : Prop :=
  ∀ (pc tgt : Addr) (s : State), s.Running →
    ∃ t, exec (.bntaken pc tgt) s = .next t ∧
      t = { s with b1 := t.b1, b2 := t.b2, ctrs := t.ctrs, draws := t.draws, rsp := none } ∧
      (∀ j, j ≠ predictorIndex s.cfg.k pc → t.b1At j = s.b1At j ∧ t.b2At j = s.b2At j) ∧
      ScoredMiss s t .atHit .atMiss ∧ ScoredHit s t .ntHit .ntMiss ∧
      ∀ c ∈ [Counter.haz, .dmiss, .imiss, .unal, .dacc, .iacc], t.ctr c = s.ctr c

/-- The 1-bit transition table of 42_branch.md R147, row by row (R146, R150): the entry after and the counter. -/
def Obligations.OneBitTransitions : Prop :=
  ∀ (pc tgt : Addr) (s : State) (e : B1Entry), s.Running → s.b1At (predictorIndex s.cfg.k pc) = e →
    (∃ t, exec (.btaken pc tgt) s = .next t ∧
      (e.state = .notTaken →
        t.b1At (predictorIndex s.cfg.k pc) = { state := .taken, target := tgt } ∧ ScoredMiss s t .b1Hit .b1Miss) ∧
      (e.state = .taken → e.target ≠ tgt →
        t.b1At (predictorIndex s.cfg.k pc) = { state := .taken, target := tgt } ∧ ScoredMiss s t .b1Hit .b1Miss) ∧
      (e.state = .taken → e.target = tgt →
        t.b1At (predictorIndex s.cfg.k pc) = e ∧ ScoredHit s t .b1Hit .b1Miss)) ∧
    (∃ t, exec (.bntaken pc tgt) s = .next t ∧
      (e.state = .taken →
        t.b1At (predictorIndex s.cfg.k pc) = { state := .notTaken, target := pc + 4#32 } ∧
          ScoredMiss s t .b1Hit .b1Miss) ∧
      (e.state = .notTaken →
        t.b1At (predictorIndex s.cfg.k pc) = e ∧ ScoredHit s t .b1Hit .b1Miss))

/-- The 2-bit transition table of 42_branch.md R147, row by row (R148, R151): the entry after and the counter. -/
def Obligations.TwoBitTransitions : Prop :=
  ∀ (pc tgt : Addr) (s : State) (e : B2Entry), s.Running → s.b2At (predictorIndex s.cfg.k pc) = e →
    (∃ t, exec (.btaken pc tgt) s = .next t ∧
      (e.state = .stronglyNotTaken ∨ e.state = .weaklyNotTaken →
        t.b2At (predictorIndex s.cfg.k pc) = { state := .weaklyTaken, target := tgt } ∧
          ScoredMiss s t .b2Hit .b2Miss) ∧
      (e.state = .weaklyTaken → e.target ≠ tgt →
        t.b2At (predictorIndex s.cfg.k pc) = { state := .weaklyNotTaken, target := tgt } ∧
          ScoredMiss s t .b2Hit .b2Miss) ∧
      (e.state = .stronglyTaken → e.target ≠ tgt →
        t.b2At (predictorIndex s.cfg.k pc) = { state := .weaklyTaken, target := tgt } ∧
          ScoredMiss s t .b2Hit .b2Miss) ∧
      (e.state = .weaklyTaken ∨ e.state = .stronglyTaken → e.target = tgt →
        t.b2At (predictorIndex s.cfg.k pc) = { state := .stronglyTaken, target := e.target } ∧
          ScoredHit s t .b2Hit .b2Miss)) ∧
    (∃ t, exec (.bntaken pc tgt) s = .next t ∧
      (e.state = .stronglyTaken ∨ e.state = .weaklyTaken →
        t.b2At (predictorIndex s.cfg.k pc) = { state := .weaklyNotTaken, target := pc + 4#32 } ∧
          ScoredMiss s t .b2Hit .b2Miss) ∧
      (e.state = .weaklyNotTaken → e.target ≠ pc + 4#32 →
        t.b2At (predictorIndex s.cfg.k pc) = { state := .weaklyTaken, target := pc + 4#32 } ∧
          ScoredMiss s t .b2Hit .b2Miss) ∧
      (e.state = .stronglyNotTaken → e.target ≠ pc + 4#32 →
        t.b2At (predictorIndex s.cfg.k pc) = { state := .weaklyNotTaken, target := pc + 4#32 } ∧
          ScoredMiss s t .b2Hit .b2Miss) ∧
      (e.state = .weaklyNotTaken ∨ e.state = .stronglyNotTaken → e.target = pc + 4#32 →
        t.b2At (predictorIndex s.cfg.k pc) = { state := .stronglyNotTaken, target := e.target } ∧
          ScoredHit s t .b2Hit .b2Miss))

/-- The second operand of BNTAKEN is accepted and ignored (42_branch.md R149). -/
def Obligations.BntakenIgnoresItsTarget : Prop :=
  ∀ (pc x y : Addr) (s : State), exec (.bntaken pc x) s = exec (.bntaken pc y) s

/-- Each branch command scores each of the four strategies exactly once (42_branch.md R140). -/
def Obligations.EachStrategyIsScoredOnce : Prop :=
  ∀ (pc tgt : Addr) (s : State), s.Running → s.Headroom 1 →
    ∀ i ∈ [Instr.btaken pc tgt, Instr.bntaken pc tgt], ∃ t, exec i s = .next t ∧
      (t.ctr .atHit).toNat + (t.ctr .atMiss).toNat = (s.ctr .atHit).toNat + (s.ctr .atMiss).toNat + 1 ∧
      (t.ctr .ntHit).toNat + (t.ctr .ntMiss).toNat = (s.ctr .ntHit).toNat + (s.ctr .ntMiss).toNat + 1 ∧
      (t.ctr .b1Hit).toNat + (t.ctr .b1Miss).toNat = (s.ctr .b1Hit).toNat + (s.ctr .b1Miss).toNat + 1 ∧
      (t.ctr .b2Hit).toNat + (t.ctr .b2Miss).toNat = (s.ctr .b2Hit).toNat + (s.ctr .b2Miss).toNat + 1

/-- Over a stream without RESET that raises no fault, always-taken hits and never-taken misses go up by the number of
BTAKEN commands, always-taken misses and never-taken hits by the number of BNTAKEN commands (42_branch.md R152 (b)), and
the two counters of the 1-bit and of the 2-bit strategy together by both (R152 (a)). -/
def Obligations.ScoresCountTheBranches : Prop :=
  ∀ (s : State) (l : List Instr), s.Running → paired s.status.armed l = true → Instr.reset ∉ l →
    s.inputs = presented l → s.Headroom l.length →
    ∃ t, Sys2Proof.core.run l.length s = .next t ∧
      (t.ctr .atHit).toNat = (s.ctr .atHit).toNat + takenIn l ∧
      (t.ctr .ntMiss).toNat = (s.ctr .ntMiss).toNat + takenIn l ∧
      (t.ctr .atMiss).toNat = (s.ctr .atMiss).toNat + notTakenIn l ∧
      (t.ctr .ntHit).toNat = (s.ctr .ntHit).toNat + notTakenIn l ∧
      (t.ctr .b1Hit).toNat + (t.ctr .b1Miss).toNat =
        (s.ctr .b1Hit).toNat + (s.ctr .b1Miss).toNat + takenIn l + notTakenIn l ∧
      (t.ctr .b2Hit).toNat + (t.ctr .b2Miss).toNat =
        (s.ctr .b2Hit).toNat + (s.ctr .b2Miss).toNat + takenIn l + notTakenIn l

/-- From the tables RESET leaves, on every stream of one branch with one taken target the 2-bit strategy misses exactly
as often as the 1-bit strategy, so it is no worse after one direction change (42_branch.md R152 (d); that they tie:
95_test_vectors.md S7). -/
def Obligations.TwoBitTiesWithOneBitOnOneBranch : Prop :=
  ∀ (cfg : Config) (pc tgt : Addr) (l : List Instr), l.length < 2 ^ 64 →
    (∀ i ∈ l, i = .btaken pc tgt ∨ ∃ x, i = .bntaken pc x) →
    ∃ t, Sys2Proof.core.run l.length { State.afterReset cfg with inputs := presented l } = .next t ∧
      t.ctr .b2Miss = t.ctr .b1Miss

/-- Complementarity and partition of the scores are kept by every step, while no sum passes 2^64 - 1
(42_branch.md R152 (a), (b)). -/
def Obligations.EveryStepKeepsTheScoresBalanced : Prop :=
  ∀ s t : State, s.ScoresBalanced → s.Headroom 1 → step s = .next t → t.ScoresBalanced

/-- Complementarity and partition of the scores hold right after reset, in every configuration. -/
def Obligations.ResetMeetsTheScoresBalance : Prop :=
  (∀ cfg : Config, (State.afterReset cfg).ScoresBalanced) ∧ State.reset.ScoresBalanced

/-! ## Control -/

/-- RESET acts in every state and puts every element at its reset value (70_reset_and_hazards.md R191; 43_control.md
R160; 10_state.md R37). That the model's own fields `cfg`, `inputs` and `draws` stay and that `rsp` is cleared is the
model's choice, log 19. -/
def Obligations.ResetResult : Prop :=
  ∀ s : State, ∃ t, exec .reset s = .next t ∧
    t.cur = { dest := .none, src1 := .none, src2 := .none, kind := .uninitialized } ∧
    t.prev = { dest := .none, src1 := .none, src2 := .none, kind := .uninitialized } ∧
    (∀ r, t.dlineAt r =
      { tag := BitVec.ofNat 32 (2 ^ tagBits s.cfg.dcache - 1), valid := false, dirty := false }) ∧
    (∀ r, t.ilineAt r = { tag := BitVec.ofNat 32 (2 ^ tagBits s.cfg.icache - 1), valid := false }) ∧
    (∀ i, t.targetAt i = s.cfg.tgtReset) ∧
    (∀ i, t.b1At i = { state := .taken, target := s.cfg.tgtReset }) ∧
    (∀ i, t.b2At i = { state := .stronglyTaken, target := s.cfg.tgtReset }) ∧
    (∀ c, t.ctr c = 0#64) ∧
    t.status = { armed := false, ready := true, fault := .none } ∧
    t.rsp = none ∧ t.cfg = s.cfg ∧ t.draws = s.draws ∧ t.inputs = s.inputs

/-- RDCTR responds with the counter its operand selects, while a fault is latched too, and changes no state
(43_control.md R161). -/
def Obligations.RdctrResult : Prop :=
  ∀ (c : Counter) (s : State), s.status.ready = true →
    exec (.rdctr c) s = .next { s with rsp := some (s.ctr c) }

/-- The pseudo-command `report` of a ready block reads out every counter, in selector order, and then the status
(30_encoding.md R94; that this form is followed and not that of 92_eei_decisions.md D26 is the model's choice, log
20). -/
def Obligations.ReportReadsEveryCounter : Prop :=
  ∀ (s : State), s.status.ready = true → s.inputs = presented report →
    (∀ c : Counter, ∃ t, Sys2Proof.core.run (c.code.toNat + 1) s = .next t ∧ t.rsp = some (s.ctr c)) ∧
    ∃ t, Sys2Proof.core.run 15 s = .next t ∧ t = { s with rsp := t.rsp, inputs := [] } ∧
      t.rsp = some (Status.response s.status)

/-- RDSTAT responds with `armed` in bit 5, `ready` in bit 4 and the fault code in bits 3:0, in every state, and changes
no state (43_control.md R162; 10_state.md R33). -/
def Obligations.RdstatResult : Prop :=
  ∀ s : State, ∃ v : Count, exec .rdstat s = .next { s with rsp := some v } ∧
    v.toNat = 32 * s.status.armed.toNat + 16 * s.status.ready.toNat + (FaultCode.code s.status.fault).toNat

/-- RESET erases history: two blocks of one configuration that are presented RESET and then the same inputs go through
the same states from then on, whatever they held before (20_memory.md R64; 70_reset_and_hazards.md R196). The draw
counters, which are the model's and which RESET keeps (logs 9, 19), are taken equal. -/
def Obligations.ResetErasesHistory : Prop :=
  ∀ (s u : State) (w : CmdWord) (rest : List Input) (n : Nat), decode w = .cmd .reset →
    s.inputs = .cmd w :: rest → u.inputs = .cmd w :: rest → s.cfg = u.cfg → s.draws = u.draws →
    Sys2Proof.core.run (n + 1) s = Sys2Proof.core.run (n + 1) u

/-! ## Components -/

/-- The components share no state (30_encoding.md R95; the columns "written by" and "read by" of 10_state.md R37): a
command of one component leaves the others as they are, and what it does to its own depends on nothing but that
component, the configuration, `ready` and `fault`. The draw counters, which are the model's (log 9), are taken equal. -/
def Obligations.EachComponentReadsAndWritesOnlyItself : Prop :=
  ∀ (k : Component) (i : Instr) (s t : State), i.wellFormed = true → componentOf i = some k →
    SameIn k s t → SameShared s t →
    ∃ s' t', exec i s = .next s' ∧ exec i t = .next t' ∧ SameIn k s' t' ∧ SameShared s' t' ∧
      ∀ j, j ≠ k → SameIn j s' s

/-- No order among the components is needed (30_encoding.md R95; 70_reset_and_hazards.md R195): two streams that pair
RECORD and CHECK and give every component the same commands in the same order leave the same state, while no sum passes
2^64 - 1. That the stream is presented as the list of inputs is the model's (log 3). -/
def Obligations.InterleavingOfComponentsIsFree : Prop :=
  ∀ (s : State) (l m : List Instr), s.Running → paired s.status.armed l = true → SameInterleaved l m →
    s.Headroom (4 * l.length) →
    ∃ t, Sys2Proof.core.run l.length { s with inputs := presented l } = .next t ∧
      Sys2Proof.core.run m.length { s with inputs := presented m } = .next t
end

