-- ==== Sys2Proof/Laws/Address.lean ====
section
/-! SUPPORT. The address functions of 20_memory.md as arithmetic on numbers, and their ranges. -/

namespace Sys2Proof.Machine

/-- What a well-formed geometry is (00_scope.md R7, R8). -/
theorem geometryOk_iff {g : Geometry} :
    geometryOk g = true ↔
      g.rows = 2 ^ rowBits g ∧ g.lineBytes = 2 ^ offBits g ∧ 4 ≤ g.lineBytes ∧ offBits g + rowBits g < 32 := by
  simp [geometryOk, and_assoc]

theorem configOk_iff {c : Config} :
    configOk c = true ↔ geometryOk c.dcache = true ∧ geometryOk c.icache = true ∧ c.k ≤ 30 := by
  simp [configOk, and_assoc]

theorem geometryOk_offBits {g : Geometry} (h : geometryOk g = true) : 2 ≤ offBits g := by
  obtain ⟨_, hl, h4, _⟩ := geometryOk_iff.mp h
  by_contra hlt
  have : 2 ^ offBits g ≤ 2 ^ 1 := Nat.pow_le_pow_right (by decide) (by omega)
  omega

theorem geometryOk_rows_pos {g : Geometry} (h : geometryOk g = true) : 0 < g.rows := by
  rw [(geometryOk_iff.mp h).1]; exact Nat.two_pow_pos _

/-- Masking with `2^n - 1`, as a remainder. -/
theorem toNat_and_mask (x : BitVec 32) {n : Nat} (h : n ≤ 32) :
    (x &&& BitVec.ofNat 32 (2 ^ n - 1)).toNat = x.toNat % 2 ^ n := by
  have hlt : 2 ^ n - 1 < 2 ^ 32 := by
    have : 2 ^ n ≤ 2 ^ 32 := Nat.pow_le_pow_right (by decide) h
    have := Nat.two_pow_pos n
    omega
  rw [BitVec.toNat_and, BitVec.toNat_ofNat, Nat.mod_eq_of_lt hlt, Nat.and_two_pow_sub_one_eq_mod]

/-- `row_X(a)` (20_memory.md R53). -/
theorem rowOf_eq {g : Geometry} (h : geometryOk g = true) (a : Addr) :
    rowOf g a = a.toNat / 2 ^ offBits g % g.rows := by
  obtain ⟨hr, _, _, hb⟩ := geometryOk_iff.mp h
  unfold rowOf
  rw [hr, toNat_and_mask _ (by omega), BitVec.toNat_ushiftRight, Nat.shiftRight_eq_div_pow]

theorem rowOf_lt {g : Geometry} (h : geometryOk g = true) (a : Addr) : rowOf g a < g.rows := by
  rw [rowOf_eq h]; exact Nat.mod_lt _ (geometryOk_rows_pos h)

/-- `tag_X(a)` (20_memory.md R54). -/
theorem tagOf_toNat (g : Geometry) (a : Addr) :
    (tagOf g a).toNat = a.toNat / 2 ^ offBits g / 2 ^ rowBits g := by
  simp [tagOf, Nat.shiftRight_eq_div_pow]

theorem tagOf_lt {g : Geometry} (h : geometryOk g = true) (a : Addr) : (tagOf g a).toNat < 2 ^ tagBits g := by
  obtain ⟨_, _, _, hb⟩ := geometryOk_iff.mp h
  rw [tagOf_toNat, Nat.div_div_eq_div_mul, ← Nat.pow_add]
  refine Nat.div_lt_of_lt_mul ?_
  rw [← Nat.pow_add, show offBits g + rowBits g + tagBits g = 32 by unfold tagBits; omega]
  exact a.isLt

/-- `X_WORDS` as a power of two (00_scope.md R8). -/
theorem lineWords_eq {g : Geometry} (h : geometryOk g = true) : lineWords g = 2 ^ (offBits g - 2) := by
  obtain ⟨_, hl, _, _⟩ := geometryOk_iff.mp h
  have h2 := geometryOk_offBits h
  have : 2 ^ offBits g = 2 ^ (offBits g - 2) * 4 := by
    rw [show (4 : Nat) = 2 ^ 2 by decide, ← Nat.pow_add]; congr 1; omega
  unfold lineWords
  rw [hl, this, Nat.mul_div_cancel _ (by decide)]

/-- `word_X(a)` (20_memory.md R55). -/
theorem wordOf_eq {g : Geometry} (h : geometryOk g = true) (a : Addr) :
    wordOf g a = a.toNat / 4 % lineWords g := by
  obtain ⟨_, _, _, hb⟩ := geometryOk_iff.mp h
  unfold wordOf
  rw [lineWords_eq h, toNat_and_mask _ (by omega), BitVec.toNat_ushiftRight, Nat.shiftRight_eq_div_pow]

theorem low_two_toNat (a : Addr) : (a &&& 3#32).toNat = a.toNat % 4 := by
  have := toNat_and_mask a (n := 2) (by decide)
  simpa using this

/-- An address is unaligned when it is no multiple of 4 (20_memory.md R56). -/
theorem unaligned_iff (a : Addr) : unaligned a = true ↔ a.toNat % 4 ≠ 0 := by
  unfold unaligned
  rw [bne_iff_ne, ne_eq, ← BitVec.toNat_inj, low_two_toNat]
  simp

/-- `spill(a)` (20_memory.md R51, R56). -/
theorem spill_toNat (a : Addr) : (spill a).toNat = (a.toNat / 4 * 4 + 4) % 2 ^ 32 := by
  unfold spill
  rw [BitVec.toNat_sub, BitVec.toNat_add, low_two_toNat]
  have := a.isLt
  simp only [BitVec.toNat_ofNat]
  omega

/-- `idx(pc)` (20_memory.md R58). -/
theorem predictorIndex_eq {k : Nat} (h : k ≤ 30) (pc : Addr) : predictorIndex k pc = pc.toNat / 4 % 2 ^ k := by
  unfold predictorIndex
  rw [toNat_and_mask _ (by omega), BitVec.toNat_ushiftRight, Nat.shiftRight_eq_div_pow]

theorem predictorIndex_lt {k : Nat} (h : k ≤ 30) (pc : Addr) : predictorIndex k pc < 2 ^ k := by
  rw [predictorIndex_eq h]; exact Nat.mod_lt _ (Nat.two_pow_pos k)

/-- A tag cut to width fits it (00_scope.md R8). -/
theorem fitTag_lt (g : Geometry) (t : BitVec 32) : (fitTag g t).toNat < 2 ^ tagBits g := by
  have h : tagBits g ≤ 32 := by unfold tagBits; omega
  unfold fitTag allOnesTag
  rw [toNat_and_mask _ h]
  exact Nat.mod_lt _ (Nat.two_pow_pos _)

end Sys2Proof.Machine
end

