-- ==== Sys2Proof/Laws/State.lean ====
section
/-! SUPPORT. One lemma per field of State per update: what each named update of Machine/Ops.lean and Machine/Port.lean
leaves of each field. -/

namespace Sys2Proof.Machine

/-! ## quiet -/

@[simp] theorem quiet_cfg (s : State) : (quiet s).cfg = s.cfg := rfl
@[simp] theorem quiet_cur (s : State) : (quiet s).cur = s.cur := rfl
@[simp] theorem quiet_prev (s : State) : (quiet s).prev = s.prev := rfl
@[simp] theorem quiet_dline (s : State) : (quiet s).dline = s.dline := rfl
@[simp] theorem quiet_iline (s : State) : (quiet s).iline = s.iline := rfl
@[simp] theorem quiet_atTgt (s : State) : (quiet s).atTgt = s.atTgt := rfl
@[simp] theorem quiet_b1 (s : State) : (quiet s).b1 = s.b1 := rfl
@[simp] theorem quiet_b2 (s : State) : (quiet s).b2 = s.b2 := rfl
@[simp] theorem quiet_ctrs (s : State) : (quiet s).ctrs = s.ctrs := rfl
@[simp] theorem quiet_status (s : State) : (quiet s).status = s.status := rfl
@[simp] theorem quiet_rsp (s : State) : (quiet s).rsp = none := rfl
@[simp] theorem quiet_draws (s : State) : (quiet s).draws = s.draws := rfl
@[simp] theorem quiet_inputs (s : State) : (quiet s).inputs = s.inputs := rfl

/-! ## respond -/

@[simp] theorem respond_cfg (v : Count) (s : State) : (respond v s).cfg = s.cfg := rfl
@[simp] theorem respond_cur (v : Count) (s : State) : (respond v s).cur = s.cur := rfl
@[simp] theorem respond_prev (v : Count) (s : State) : (respond v s).prev = s.prev := rfl
@[simp] theorem respond_dline (v : Count) (s : State) : (respond v s).dline = s.dline := rfl
@[simp] theorem respond_iline (v : Count) (s : State) : (respond v s).iline = s.iline := rfl
@[simp] theorem respond_atTgt (v : Count) (s : State) : (respond v s).atTgt = s.atTgt := rfl
@[simp] theorem respond_b1 (v : Count) (s : State) : (respond v s).b1 = s.b1 := rfl
@[simp] theorem respond_b2 (v : Count) (s : State) : (respond v s).b2 = s.b2 := rfl
@[simp] theorem respond_ctrs (v : Count) (s : State) : (respond v s).ctrs = s.ctrs := rfl
@[simp] theorem respond_status (v : Count) (s : State) : (respond v s).status = s.status := rfl
@[simp] theorem respond_rsp (v : Count) (s : State) : (respond v s).rsp = some v := rfl
@[simp] theorem respond_draws (v : Count) (s : State) : (respond v s).draws = s.draws := rfl
@[simp] theorem respond_inputs (v : Count) (s : State) : (respond v s).inputs = s.inputs := rfl

/-! ## raise -/

@[simp] theorem raise_cfg (c : FaultCode) (s : State) : (raise c s).cfg = s.cfg := rfl
@[simp] theorem raise_cur (c : FaultCode) (s : State) : (raise c s).cur = s.cur := rfl
@[simp] theorem raise_prev (c : FaultCode) (s : State) : (raise c s).prev = s.prev := rfl
@[simp] theorem raise_dline (c : FaultCode) (s : State) : (raise c s).dline = s.dline := rfl
@[simp] theorem raise_iline (c : FaultCode) (s : State) : (raise c s).iline = s.iline := rfl
@[simp] theorem raise_atTgt (c : FaultCode) (s : State) : (raise c s).atTgt = s.atTgt := rfl
@[simp] theorem raise_b1 (c : FaultCode) (s : State) : (raise c s).b1 = s.b1 := rfl
@[simp] theorem raise_b2 (c : FaultCode) (s : State) : (raise c s).b2 = s.b2 := rfl
@[simp] theorem raise_ctrs (c : FaultCode) (s : State) : (raise c s).ctrs = s.ctrs := rfl
@[simp] theorem raise_status (c : FaultCode) (s : State) : (raise c s).status = s.status.latch c := rfl
@[simp] theorem raise_rsp (c : FaultCode) (s : State) : (raise c s).rsp = s.rsp := rfl
@[simp] theorem raise_draws (c : FaultCode) (s : State) : (raise c s).draws = s.draws := rfl
@[simp] theorem raise_inputs (c : FaultCode) (s : State) : (raise c s).inputs = s.inputs := rfl

/-! ## setArmed -/

@[simp] theorem setArmed_cfg (b : Bool) (s : State) : (setArmed b s).cfg = s.cfg := rfl
@[simp] theorem setArmed_cur (b : Bool) (s : State) : (setArmed b s).cur = s.cur := rfl
@[simp] theorem setArmed_prev (b : Bool) (s : State) : (setArmed b s).prev = s.prev := rfl
@[simp] theorem setArmed_dline (b : Bool) (s : State) : (setArmed b s).dline = s.dline := rfl
@[simp] theorem setArmed_iline (b : Bool) (s : State) : (setArmed b s).iline = s.iline := rfl
@[simp] theorem setArmed_atTgt (b : Bool) (s : State) : (setArmed b s).atTgt = s.atTgt := rfl
@[simp] theorem setArmed_b1 (b : Bool) (s : State) : (setArmed b s).b1 = s.b1 := rfl
@[simp] theorem setArmed_b2 (b : Bool) (s : State) : (setArmed b s).b2 = s.b2 := rfl
@[simp] theorem setArmed_ctrs (b : Bool) (s : State) : (setArmed b s).ctrs = s.ctrs := rfl
@[simp] theorem setArmed_status (b : Bool) (s : State) : (setArmed b s).status = s.status.setArmed b := rfl
@[simp] theorem setArmed_rsp (b : Bool) (s : State) : (setArmed b s).rsp = s.rsp := rfl
@[simp] theorem setArmed_draws (b : Bool) (s : State) : (setArmed b s).draws = s.draws := rfl
@[simp] theorem setArmed_inputs (b : Bool) (s : State) : (setArmed b s).inputs = s.inputs := rfl

/-! ## setCtr -/

@[simp] theorem setCtr_cfg (s : State) (c : Counter) (v : Count) : (s.setCtr c v).cfg = s.cfg := rfl
@[simp] theorem setCtr_cur (s : State) (c : Counter) (v : Count) : (s.setCtr c v).cur = s.cur := rfl
@[simp] theorem setCtr_prev (s : State) (c : Counter) (v : Count) : (s.setCtr c v).prev = s.prev := rfl
@[simp] theorem setCtr_dline (s : State) (c : Counter) (v : Count) : (s.setCtr c v).dline = s.dline := rfl
@[simp] theorem setCtr_iline (s : State) (c : Counter) (v : Count) : (s.setCtr c v).iline = s.iline := rfl
@[simp] theorem setCtr_atTgt (s : State) (c : Counter) (v : Count) : (s.setCtr c v).atTgt = s.atTgt := rfl
@[simp] theorem setCtr_b1 (s : State) (c : Counter) (v : Count) : (s.setCtr c v).b1 = s.b1 := rfl
@[simp] theorem setCtr_b2 (s : State) (c : Counter) (v : Count) : (s.setCtr c v).b2 = s.b2 := rfl
@[simp] theorem setCtr_ctrs (s : State) (c : Counter) (v : Count) : (s.setCtr c v).ctrs = s.ctrs.set c v := rfl
@[simp] theorem setCtr_status (s : State) (c : Counter) (v : Count) : (s.setCtr c v).status = s.status := rfl
@[simp] theorem setCtr_rsp (s : State) (c : Counter) (v : Count) : (s.setCtr c v).rsp = s.rsp := rfl
@[simp] theorem setCtr_draws (s : State) (c : Counter) (v : Count) : (s.setCtr c v).draws = s.draws := rfl
@[simp] theorem setCtr_inputs (s : State) (c : Counter) (v : Count) : (s.setCtr c v).inputs = s.inputs := rfl

/-! ## setDline -/

@[simp] theorem setDline_cfg (s : State) (r : Nat) (l : DLine) : (s.setDline r l).cfg = s.cfg := rfl
@[simp] theorem setDline_cur (s : State) (r : Nat) (l : DLine) : (s.setDline r l).cur = s.cur := rfl
@[simp] theorem setDline_prev (s : State) (r : Nat) (l : DLine) : (s.setDline r l).prev = s.prev := rfl
@[simp] theorem setDline_dline (s : State) (r : Nat) (l : DLine) : (s.setDline r l).dline = Table.write (dlineReset s.cfg) s.dline r l := rfl
@[simp] theorem setDline_iline (s : State) (r : Nat) (l : DLine) : (s.setDline r l).iline = s.iline := rfl
@[simp] theorem setDline_atTgt (s : State) (r : Nat) (l : DLine) : (s.setDline r l).atTgt = s.atTgt := rfl
@[simp] theorem setDline_b1 (s : State) (r : Nat) (l : DLine) : (s.setDline r l).b1 = s.b1 := rfl
@[simp] theorem setDline_b2 (s : State) (r : Nat) (l : DLine) : (s.setDline r l).b2 = s.b2 := rfl
@[simp] theorem setDline_ctrs (s : State) (r : Nat) (l : DLine) : (s.setDline r l).ctrs = s.ctrs := rfl
@[simp] theorem setDline_status (s : State) (r : Nat) (l : DLine) : (s.setDline r l).status = s.status := rfl
@[simp] theorem setDline_rsp (s : State) (r : Nat) (l : DLine) : (s.setDline r l).rsp = s.rsp := rfl
@[simp] theorem setDline_draws (s : State) (r : Nat) (l : DLine) : (s.setDline r l).draws = s.draws := rfl
@[simp] theorem setDline_inputs (s : State) (r : Nat) (l : DLine) : (s.setDline r l).inputs = s.inputs := rfl

/-! ## setIline -/

@[simp] theorem setIline_cfg (s : State) (r : Nat) (l : ILine) : (s.setIline r l).cfg = s.cfg := rfl
@[simp] theorem setIline_cur (s : State) (r : Nat) (l : ILine) : (s.setIline r l).cur = s.cur := rfl
@[simp] theorem setIline_prev (s : State) (r : Nat) (l : ILine) : (s.setIline r l).prev = s.prev := rfl
@[simp] theorem setIline_dline (s : State) (r : Nat) (l : ILine) : (s.setIline r l).dline = s.dline := rfl
@[simp] theorem setIline_iline (s : State) (r : Nat) (l : ILine) : (s.setIline r l).iline = Table.write (ilineReset s.cfg) s.iline r l := rfl
@[simp] theorem setIline_atTgt (s : State) (r : Nat) (l : ILine) : (s.setIline r l).atTgt = s.atTgt := rfl
@[simp] theorem setIline_b1 (s : State) (r : Nat) (l : ILine) : (s.setIline r l).b1 = s.b1 := rfl
@[simp] theorem setIline_b2 (s : State) (r : Nat) (l : ILine) : (s.setIline r l).b2 = s.b2 := rfl
@[simp] theorem setIline_ctrs (s : State) (r : Nat) (l : ILine) : (s.setIline r l).ctrs = s.ctrs := rfl
@[simp] theorem setIline_status (s : State) (r : Nat) (l : ILine) : (s.setIline r l).status = s.status := rfl
@[simp] theorem setIline_rsp (s : State) (r : Nat) (l : ILine) : (s.setIline r l).rsp = s.rsp := rfl
@[simp] theorem setIline_draws (s : State) (r : Nat) (l : ILine) : (s.setIline r l).draws = s.draws := rfl
@[simp] theorem setIline_inputs (s : State) (r : Nat) (l : ILine) : (s.setIline r l).inputs = s.inputs := rfl

/-! ## setTarget -/

@[simp] theorem setTarget_cfg (s : State) (i : Nat) (a : Addr) : (s.setTarget i a).cfg = s.cfg := rfl
@[simp] theorem setTarget_cur (s : State) (i : Nat) (a : Addr) : (s.setTarget i a).cur = s.cur := rfl
@[simp] theorem setTarget_prev (s : State) (i : Nat) (a : Addr) : (s.setTarget i a).prev = s.prev := rfl
@[simp] theorem setTarget_dline (s : State) (i : Nat) (a : Addr) : (s.setTarget i a).dline = s.dline := rfl
@[simp] theorem setTarget_iline (s : State) (i : Nat) (a : Addr) : (s.setTarget i a).iline = s.iline := rfl
@[simp] theorem setTarget_atTgt (s : State) (i : Nat) (a : Addr) : (s.setTarget i a).atTgt = Table.write s.cfg.tgtReset s.atTgt i a := rfl
@[simp] theorem setTarget_b1 (s : State) (i : Nat) (a : Addr) : (s.setTarget i a).b1 = s.b1 := rfl
@[simp] theorem setTarget_b2 (s : State) (i : Nat) (a : Addr) : (s.setTarget i a).b2 = s.b2 := rfl
@[simp] theorem setTarget_ctrs (s : State) (i : Nat) (a : Addr) : (s.setTarget i a).ctrs = s.ctrs := rfl
@[simp] theorem setTarget_status (s : State) (i : Nat) (a : Addr) : (s.setTarget i a).status = s.status := rfl
@[simp] theorem setTarget_rsp (s : State) (i : Nat) (a : Addr) : (s.setTarget i a).rsp = s.rsp := rfl
@[simp] theorem setTarget_draws (s : State) (i : Nat) (a : Addr) : (s.setTarget i a).draws = s.draws := rfl
@[simp] theorem setTarget_inputs (s : State) (i : Nat) (a : Addr) : (s.setTarget i a).inputs = s.inputs := rfl

/-! ## setB1 -/

@[simp] theorem setB1_cfg (s : State) (i : Nat) (e : B1Entry) : (s.setB1 i e).cfg = s.cfg := rfl
@[simp] theorem setB1_cur (s : State) (i : Nat) (e : B1Entry) : (s.setB1 i e).cur = s.cur := rfl
@[simp] theorem setB1_prev (s : State) (i : Nat) (e : B1Entry) : (s.setB1 i e).prev = s.prev := rfl
@[simp] theorem setB1_dline (s : State) (i : Nat) (e : B1Entry) : (s.setB1 i e).dline = s.dline := rfl
@[simp] theorem setB1_iline (s : State) (i : Nat) (e : B1Entry) : (s.setB1 i e).iline = s.iline := rfl
@[simp] theorem setB1_atTgt (s : State) (i : Nat) (e : B1Entry) : (s.setB1 i e).atTgt = s.atTgt := rfl
@[simp] theorem setB1_b1 (s : State) (i : Nat) (e : B1Entry) : (s.setB1 i e).b1 = Table.write (b1Reset s.cfg) s.b1 i e := rfl
@[simp] theorem setB1_b2 (s : State) (i : Nat) (e : B1Entry) : (s.setB1 i e).b2 = s.b2 := rfl
@[simp] theorem setB1_ctrs (s : State) (i : Nat) (e : B1Entry) : (s.setB1 i e).ctrs = s.ctrs := rfl
@[simp] theorem setB1_status (s : State) (i : Nat) (e : B1Entry) : (s.setB1 i e).status = s.status := rfl
@[simp] theorem setB1_rsp (s : State) (i : Nat) (e : B1Entry) : (s.setB1 i e).rsp = s.rsp := rfl
@[simp] theorem setB1_draws (s : State) (i : Nat) (e : B1Entry) : (s.setB1 i e).draws = s.draws := rfl
@[simp] theorem setB1_inputs (s : State) (i : Nat) (e : B1Entry) : (s.setB1 i e).inputs = s.inputs := rfl

/-! ## setB2 -/

@[simp] theorem setB2_cfg (s : State) (i : Nat) (e : B2Entry) : (s.setB2 i e).cfg = s.cfg := rfl
@[simp] theorem setB2_cur (s : State) (i : Nat) (e : B2Entry) : (s.setB2 i e).cur = s.cur := rfl
@[simp] theorem setB2_prev (s : State) (i : Nat) (e : B2Entry) : (s.setB2 i e).prev = s.prev := rfl
@[simp] theorem setB2_dline (s : State) (i : Nat) (e : B2Entry) : (s.setB2 i e).dline = s.dline := rfl
@[simp] theorem setB2_iline (s : State) (i : Nat) (e : B2Entry) : (s.setB2 i e).iline = s.iline := rfl
@[simp] theorem setB2_atTgt (s : State) (i : Nat) (e : B2Entry) : (s.setB2 i e).atTgt = s.atTgt := rfl
@[simp] theorem setB2_b1 (s : State) (i : Nat) (e : B2Entry) : (s.setB2 i e).b1 = s.b1 := rfl
@[simp] theorem setB2_b2 (s : State) (i : Nat) (e : B2Entry) : (s.setB2 i e).b2 = Table.write (b2Reset s.cfg) s.b2 i e := rfl
@[simp] theorem setB2_ctrs (s : State) (i : Nat) (e : B2Entry) : (s.setB2 i e).ctrs = s.ctrs := rfl
@[simp] theorem setB2_status (s : State) (i : Nat) (e : B2Entry) : (s.setB2 i e).status = s.status := rfl
@[simp] theorem setB2_rsp (s : State) (i : Nat) (e : B2Entry) : (s.setB2 i e).rsp = s.rsp := rfl
@[simp] theorem setB2_draws (s : State) (i : Nat) (e : B2Entry) : (s.setB2 i e).draws = s.draws := rfl
@[simp] theorem setB2_inputs (s : State) (i : Nat) (e : B2Entry) : (s.setB2 i e).inputs = s.inputs := rfl

/-! ## initialise -/

@[simp] theorem initialise_cfg (s : State) : (initialise s).cfg = s.cfg := rfl
@[simp] theorem initialise_cur (s : State) : (initialise s).cur = contextReset := rfl
@[simp] theorem initialise_prev (s : State) : (initialise s).prev = contextReset := rfl
@[simp] theorem initialise_dline (s : State) : (initialise s).dline = [] := rfl
@[simp] theorem initialise_iline (s : State) : (initialise s).iline = [] := rfl
@[simp] theorem initialise_atTgt (s : State) : (initialise s).atTgt = [] := rfl
@[simp] theorem initialise_b1 (s : State) : (initialise s).b1 = [] := rfl
@[simp] theorem initialise_b2 (s : State) : (initialise s).b2 = [] := rfl
@[simp] theorem initialise_ctrs (s : State) : (initialise s).ctrs = Counters.ofFn fun _ => 0#64 := rfl
@[simp] theorem initialise_status (s : State) : (initialise s).status = statusReset := rfl
@[simp] theorem initialise_rsp (s : State) : (initialise s).rsp = s.rsp := rfl
@[simp] theorem initialise_draws (s : State) : (initialise s).draws = s.draws := rfl
@[simp] theorem initialise_inputs (s : State) : (initialise s).inputs = s.inputs := rfl

/-! ## present -/

@[simp] theorem present_cfg (w : CmdWord) (s : State) : (present w s).cfg = s.cfg := rfl
@[simp] theorem present_cur (w : CmdWord) (s : State) : (present w s).cur = s.cur := rfl
@[simp] theorem present_prev (w : CmdWord) (s : State) : (present w s).prev = s.prev := rfl
@[simp] theorem present_dline (w : CmdWord) (s : State) : (present w s).dline = s.dline := rfl
@[simp] theorem present_iline (w : CmdWord) (s : State) : (present w s).iline = s.iline := rfl
@[simp] theorem present_atTgt (w : CmdWord) (s : State) : (present w s).atTgt = s.atTgt := rfl
@[simp] theorem present_b1 (w : CmdWord) (s : State) : (present w s).b1 = s.b1 := rfl
@[simp] theorem present_b2 (w : CmdWord) (s : State) : (present w s).b2 = s.b2 := rfl
@[simp] theorem present_ctrs (w : CmdWord) (s : State) : (present w s).ctrs = s.ctrs := rfl
@[simp] theorem present_status (w : CmdWord) (s : State) : (present w s).status = s.status := rfl
@[simp] theorem present_rsp (w : CmdWord) (s : State) : (present w s).rsp = s.rsp := rfl
@[simp] theorem present_draws (w : CmdWord) (s : State) : (present w s).draws = s.draws := rfl
@[simp] theorem present_inputs (w : CmdWord) (s : State) : (present w s).inputs = .cmd w :: s.inputs := rfl

/-! ## takeInput -/

@[simp] theorem takeInput_cfg (s : State) : (takeInput s).cfg = s.cfg := rfl
@[simp] theorem takeInput_cur (s : State) : (takeInput s).cur = s.cur := rfl
@[simp] theorem takeInput_prev (s : State) : (takeInput s).prev = s.prev := rfl
@[simp] theorem takeInput_dline (s : State) : (takeInput s).dline = s.dline := rfl
@[simp] theorem takeInput_iline (s : State) : (takeInput s).iline = s.iline := rfl
@[simp] theorem takeInput_atTgt (s : State) : (takeInput s).atTgt = s.atTgt := rfl
@[simp] theorem takeInput_b1 (s : State) : (takeInput s).b1 = s.b1 := rfl
@[simp] theorem takeInput_b2 (s : State) : (takeInput s).b2 = s.b2 := rfl
@[simp] theorem takeInput_ctrs (s : State) : (takeInput s).ctrs = s.ctrs := rfl
@[simp] theorem takeInput_status (s : State) : (takeInput s).status = s.status := rfl
@[simp] theorem takeInput_rsp (s : State) : (takeInput s).rsp = s.rsp := rfl
@[simp] theorem takeInput_draws (s : State) : (takeInput s).draws = s.draws := rfl
@[simp] theorem takeInput_inputs (s : State) : (takeInput s).inputs = s.inputs.tail := rfl

/-! ## count -/

@[simp] theorem count_cfg (c : Counter) (n : Nat) (s : State) : (count c n s).cfg = s.cfg := by
  unfold count; split <;> rfl
@[simp] theorem count_cur (c : Counter) (n : Nat) (s : State) : (count c n s).cur = s.cur := by
  unfold count; split <;> rfl
@[simp] theorem count_prev (c : Counter) (n : Nat) (s : State) : (count c n s).prev = s.prev := by
  unfold count; split <;> rfl
@[simp] theorem count_dline (c : Counter) (n : Nat) (s : State) : (count c n s).dline = s.dline := by
  unfold count; split <;> rfl
@[simp] theorem count_iline (c : Counter) (n : Nat) (s : State) : (count c n s).iline = s.iline := by
  unfold count; split <;> rfl
@[simp] theorem count_atTgt (c : Counter) (n : Nat) (s : State) : (count c n s).atTgt = s.atTgt := by
  unfold count; split <;> rfl
@[simp] theorem count_b1 (c : Counter) (n : Nat) (s : State) : (count c n s).b1 = s.b1 := by
  unfold count; split <;> rfl
@[simp] theorem count_b2 (c : Counter) (n : Nat) (s : State) : (count c n s).b2 = s.b2 := by
  unfold count; split <;> rfl
@[simp] theorem count_status (c : Counter) (n : Nat) (s : State) : (count c n s).status = s.status := by
  unfold count; split <;> rfl
@[simp] theorem count_rsp (c : Counter) (n : Nat) (s : State) : (count c n s).rsp = s.rsp := by
  unfold count; split <;> rfl
@[simp] theorem count_inputs (c : Counter) (n : Nat) (s : State) : (count c n s).inputs = s.inputs := by
  unfold count; split <;> rfl

/-! ## hardReset: the fields the spec fixes, and the model's own -/

@[simp] theorem hardReset_cfg (s : State) : (hardReset s).cfg = s.cfg := rfl
@[simp] theorem hardReset_status (s : State) : (hardReset s).status = statusPowerOn := rfl
@[simp] theorem hardReset_rsp (s : State) : (hardReset s).rsp = none := rfl
@[simp] theorem hardReset_draws (s : State) : (hardReset s).draws = s.draws + 1 := rfl
@[simp] theorem hardReset_inputs (s : State) : (hardReset s).inputs = s.inputs := rfl

/-! ## the named reads after each update -/

@[simp] theorem quiet_dlineAt (s : State) (r : Nat) : (quiet s).dlineAt r = s.dlineAt r := rfl
@[simp] theorem quiet_ilineAt (s : State) (r : Nat) : (quiet s).ilineAt r = s.ilineAt r := rfl
@[simp] theorem quiet_targetAt (s : State) (j : Nat) : (quiet s).targetAt j = s.targetAt j := rfl
@[simp] theorem quiet_b1At (s : State) (j : Nat) : (quiet s).b1At j = s.b1At j := rfl
@[simp] theorem quiet_b2At (s : State) (j : Nat) : (quiet s).b2At j = s.b2At j := rfl
@[simp] theorem quiet_ctr (s : State) (d : Counter) : (quiet s).ctr d = s.ctr d := rfl
@[simp] theorem respond_dlineAt (v : Count) (s : State) (r : Nat) : (respond v s).dlineAt r = s.dlineAt r := rfl
@[simp] theorem respond_ilineAt (v : Count) (s : State) (r : Nat) : (respond v s).ilineAt r = s.ilineAt r := rfl
@[simp] theorem respond_targetAt (v : Count) (s : State) (j : Nat) : (respond v s).targetAt j = s.targetAt j := rfl
@[simp] theorem respond_b1At (v : Count) (s : State) (j : Nat) : (respond v s).b1At j = s.b1At j := rfl
@[simp] theorem respond_b2At (v : Count) (s : State) (j : Nat) : (respond v s).b2At j = s.b2At j := rfl
@[simp] theorem respond_ctr (v : Count) (s : State) (d : Counter) : (respond v s).ctr d = s.ctr d := rfl
@[simp] theorem raise_dlineAt (c : FaultCode) (s : State) (r : Nat) : (raise c s).dlineAt r = s.dlineAt r := rfl
@[simp] theorem raise_ilineAt (c : FaultCode) (s : State) (r : Nat) : (raise c s).ilineAt r = s.ilineAt r := rfl
@[simp] theorem raise_targetAt (c : FaultCode) (s : State) (j : Nat) : (raise c s).targetAt j = s.targetAt j := rfl
@[simp] theorem raise_b1At (c : FaultCode) (s : State) (j : Nat) : (raise c s).b1At j = s.b1At j := rfl
@[simp] theorem raise_b2At (c : FaultCode) (s : State) (j : Nat) : (raise c s).b2At j = s.b2At j := rfl
@[simp] theorem raise_ctr (c : FaultCode) (s : State) (d : Counter) : (raise c s).ctr d = s.ctr d := rfl
@[simp] theorem setArmed_dlineAt (b : Bool) (s : State) (r : Nat) : (setArmed b s).dlineAt r = s.dlineAt r := rfl
@[simp] theorem setArmed_ilineAt (b : Bool) (s : State) (r : Nat) : (setArmed b s).ilineAt r = s.ilineAt r := rfl
@[simp] theorem setArmed_targetAt (b : Bool) (s : State) (j : Nat) : (setArmed b s).targetAt j = s.targetAt j := rfl
@[simp] theorem setArmed_b1At (b : Bool) (s : State) (j : Nat) : (setArmed b s).b1At j = s.b1At j := rfl
@[simp] theorem setArmed_b2At (b : Bool) (s : State) (j : Nat) : (setArmed b s).b2At j = s.b2At j := rfl
@[simp] theorem setArmed_ctr (b : Bool) (s : State) (d : Counter) : (setArmed b s).ctr d = s.ctr d := rfl
@[simp] theorem setCtr_dlineAt (s : State) (c : Counter) (v : Count) (r : Nat) : (s.setCtr c v).dlineAt r = s.dlineAt r := rfl
@[simp] theorem setCtr_ilineAt (s : State) (c : Counter) (v : Count) (r : Nat) : (s.setCtr c v).ilineAt r = s.ilineAt r := rfl
@[simp] theorem setCtr_targetAt (s : State) (c : Counter) (v : Count) (j : Nat) : (s.setCtr c v).targetAt j = s.targetAt j := rfl
@[simp] theorem setCtr_b1At (s : State) (c : Counter) (v : Count) (j : Nat) : (s.setCtr c v).b1At j = s.b1At j := rfl
@[simp] theorem setCtr_b2At (s : State) (c : Counter) (v : Count) (j : Nat) : (s.setCtr c v).b2At j = s.b2At j := rfl
@[simp] theorem setDline_ilineAt (s : State) (k : Nat) (l : DLine) (r : Nat) : (s.setDline k l).ilineAt r = s.ilineAt r := rfl
@[simp] theorem setDline_targetAt (s : State) (k : Nat) (l : DLine) (j : Nat) : (s.setDline k l).targetAt j = s.targetAt j := rfl
@[simp] theorem setDline_b1At (s : State) (k : Nat) (l : DLine) (j : Nat) : (s.setDline k l).b1At j = s.b1At j := rfl
@[simp] theorem setDline_b2At (s : State) (k : Nat) (l : DLine) (j : Nat) : (s.setDline k l).b2At j = s.b2At j := rfl
@[simp] theorem setDline_ctr (s : State) (k : Nat) (l : DLine) (d : Counter) : (s.setDline k l).ctr d = s.ctr d := rfl
@[simp] theorem setIline_dlineAt (s : State) (k : Nat) (l : ILine) (r : Nat) : (s.setIline k l).dlineAt r = s.dlineAt r := rfl
@[simp] theorem setIline_targetAt (s : State) (k : Nat) (l : ILine) (j : Nat) : (s.setIline k l).targetAt j = s.targetAt j := rfl
@[simp] theorem setIline_b1At (s : State) (k : Nat) (l : ILine) (j : Nat) : (s.setIline k l).b1At j = s.b1At j := rfl
@[simp] theorem setIline_b2At (s : State) (k : Nat) (l : ILine) (j : Nat) : (s.setIline k l).b2At j = s.b2At j := rfl
@[simp] theorem setIline_ctr (s : State) (k : Nat) (l : ILine) (d : Counter) : (s.setIline k l).ctr d = s.ctr d := rfl
@[simp] theorem setTarget_dlineAt (s : State) (i : Nat) (a : Addr) (r : Nat) : (s.setTarget i a).dlineAt r = s.dlineAt r := rfl
@[simp] theorem setTarget_ilineAt (s : State) (i : Nat) (a : Addr) (r : Nat) : (s.setTarget i a).ilineAt r = s.ilineAt r := rfl
@[simp] theorem setTarget_b1At (s : State) (i : Nat) (a : Addr) (j : Nat) : (s.setTarget i a).b1At j = s.b1At j := rfl
@[simp] theorem setTarget_b2At (s : State) (i : Nat) (a : Addr) (j : Nat) : (s.setTarget i a).b2At j = s.b2At j := rfl
@[simp] theorem setTarget_ctr (s : State) (i : Nat) (a : Addr) (d : Counter) : (s.setTarget i a).ctr d = s.ctr d := rfl
@[simp] theorem setB1_dlineAt (s : State) (i : Nat) (e : B1Entry) (r : Nat) : (s.setB1 i e).dlineAt r = s.dlineAt r := rfl
@[simp] theorem setB1_ilineAt (s : State) (i : Nat) (e : B1Entry) (r : Nat) : (s.setB1 i e).ilineAt r = s.ilineAt r := rfl
@[simp] theorem setB1_targetAt (s : State) (i : Nat) (e : B1Entry) (j : Nat) : (s.setB1 i e).targetAt j = s.targetAt j := rfl
@[simp] theorem setB1_b2At (s : State) (i : Nat) (e : B1Entry) (j : Nat) : (s.setB1 i e).b2At j = s.b2At j := rfl
@[simp] theorem setB1_ctr (s : State) (i : Nat) (e : B1Entry) (d : Counter) : (s.setB1 i e).ctr d = s.ctr d := rfl
@[simp] theorem setB2_dlineAt (s : State) (i : Nat) (e : B2Entry) (r : Nat) : (s.setB2 i e).dlineAt r = s.dlineAt r := rfl
@[simp] theorem setB2_ilineAt (s : State) (i : Nat) (e : B2Entry) (r : Nat) : (s.setB2 i e).ilineAt r = s.ilineAt r := rfl
@[simp] theorem setB2_targetAt (s : State) (i : Nat) (e : B2Entry) (j : Nat) : (s.setB2 i e).targetAt j = s.targetAt j := rfl
@[simp] theorem setB2_b1At (s : State) (i : Nat) (e : B2Entry) (j : Nat) : (s.setB2 i e).b1At j = s.b1At j := rfl
@[simp] theorem setB2_ctr (s : State) (i : Nat) (e : B2Entry) (d : Counter) : (s.setB2 i e).ctr d = s.ctr d := rfl
@[simp] theorem present_dlineAt (w : CmdWord) (s : State) (r : Nat) : (present w s).dlineAt r = s.dlineAt r := rfl
@[simp] theorem present_ilineAt (w : CmdWord) (s : State) (r : Nat) : (present w s).ilineAt r = s.ilineAt r := rfl
@[simp] theorem present_targetAt (w : CmdWord) (s : State) (j : Nat) : (present w s).targetAt j = s.targetAt j := rfl
@[simp] theorem present_b1At (w : CmdWord) (s : State) (j : Nat) : (present w s).b1At j = s.b1At j := rfl
@[simp] theorem present_b2At (w : CmdWord) (s : State) (j : Nat) : (present w s).b2At j = s.b2At j := rfl
@[simp] theorem present_ctr (w : CmdWord) (s : State) (d : Counter) : (present w s).ctr d = s.ctr d := rfl
@[simp] theorem takeInput_dlineAt (s : State) (r : Nat) : (takeInput s).dlineAt r = s.dlineAt r := rfl
@[simp] theorem takeInput_ilineAt (s : State) (r : Nat) : (takeInput s).ilineAt r = s.ilineAt r := rfl
@[simp] theorem takeInput_targetAt (s : State) (j : Nat) : (takeInput s).targetAt j = s.targetAt j := rfl
@[simp] theorem takeInput_b1At (s : State) (j : Nat) : (takeInput s).b1At j = s.b1At j := rfl
@[simp] theorem takeInput_b2At (s : State) (j : Nat) : (takeInput s).b2At j = s.b2At j := rfl
@[simp] theorem takeInput_ctr (s : State) (d : Counter) : (takeInput s).ctr d = s.ctr d := rfl
@[simp] theorem count_dlineAt (c : Counter) (n : Nat) (s : State) (r : Nat) : (count c n s).dlineAt r = s.dlineAt r := by
  unfold count; split <;> rfl
@[simp] theorem count_ilineAt (c : Counter) (n : Nat) (s : State) (r : Nat) : (count c n s).ilineAt r = s.ilineAt r := by
  unfold count; split <;> rfl
@[simp] theorem count_targetAt (c : Counter) (n : Nat) (s : State) (j : Nat) : (count c n s).targetAt j = s.targetAt j := by
  unfold count; split <;> rfl
@[simp] theorem count_b1At (c : Counter) (n : Nat) (s : State) (j : Nat) : (count c n s).b1At j = s.b1At j := by
  unfold count; split <;> rfl
@[simp] theorem count_b2At (c : Counter) (n : Nat) (s : State) (j : Nat) : (count c n s).b2At j = s.b2At j := by
  unfold count; split <;> rfl

end Sys2Proof.Machine
end

