-- ==== Sys2Proof/Laws/Tables.lean ====
section
/-! SUPPORT. The laws of the block's arrays: a read after a write, and that writing and filling keep the canonical
form. -/

namespace Sys2Proof

variable {α : Type}

@[simp] theorem Table.read_nil (dflt : α) (i : Nat) : Table.read dflt [] i = dflt := rfl

theorem Table.read_cons (dflt : α) (k : Nat) (v : α) (t : Table α) (i : Nat) :
    Table.read dflt ((k, v) :: t) i = if k = i then v else Table.read dflt t i := rfl

theorem Table.read_erase_same (dflt : α) (t : Table α) (i : Nat) :
    Table.read dflt (Table.erase t i) i = dflt := by
  induction t with
  | nil => rfl
  | cons e t ih =>
    obtain ⟨k, v⟩ := e
    by_cases h : k = i <;> simp_all [Table.erase, Table.read]

theorem Table.read_erase_other (dflt : α) (t : Table α) {i j : Nat} (h : j ≠ i) :
    Table.read dflt (Table.erase t i) j = Table.read dflt t j := by
  induction t with
  | nil => rfl
  | cons e t ih =>
    obtain ⟨k, v⟩ := e
    by_cases hk : k = i
    · have : k ≠ j := fun e => h (e ▸ hk ▸ rfl)
      simp_all [Table.erase, Table.read]
    · simp_all [Table.erase, Table.read]

theorem Table.read_insert_other (dflt : α) (t : Table α) {i j : Nat} (v : α) (h : j ≠ i) :
    Table.read dflt (Table.insert t i v) j = Table.read dflt t j := by
  induction t with
  | nil => simp [Table.insert, Table.read, Ne.symm h]
  | cons e t ih =>
    obtain ⟨k, w⟩ := e
    by_cases hk : i < k <;> simp [Table.insert, Table.read, hk, Ne.symm h, ih]

theorem Table.read_insert_same (dflt : α) (t : Table α) (i : Nat) (v : α) (h : ∀ e ∈ t, e.1 ≠ i) :
    Table.read dflt (Table.insert t i v) i = v := by
  induction t with
  | nil => simp [Table.insert, Table.read]
  | cons e t ih =>
    obtain ⟨k, w⟩ := e
    have hk : k ≠ i := h (k, w) (by simp)
    by_cases hlt : i < k
    · simp [Table.insert, Table.read, hlt]
    · simp only [Table.insert, hlt, if_false, Table.read, hk]
      exact ih fun e he => h e (by simp [he])

theorem Table.erase_ne (t : Table α) (i : Nat) : ∀ e ∈ Table.erase t i, e.1 ≠ i := by
  intro e he
  simpa [Table.erase] using (List.mem_filter.mp he).2

/-- What an insertion lists: the entry inserted, or an entry listed before. -/
theorem Table.mem_insert {t : Table α} {i : Nat} {v : α} {e : Nat × α} (h : e ∈ Table.insert t i v) :
    e = (i, v) ∨ e ∈ t := by
  induction t with
  | nil => left; simpa [Table.insert] using h
  | cons x t ih =>
    obtain ⟨k, w⟩ := x
    unfold Table.insert at h
    split at h
    · simpa using h
    · rcases List.mem_cons.mp h with h | h
      · right; simp [h]
      · rcases ih h with h | h
        · exact .inl h
        · right; simp [h]

theorem Table.insert_sorted {t : Table α} (i : Nat) (v : α) (ht : t.Pairwise fun x y => x.1 < y.1)
    (hi : ∀ e ∈ t, e.1 ≠ i) : (Table.insert t i v).Pairwise fun x y => x.1 < y.1 := by
  induction t with
  | nil => simp [Table.insert]
  | cons x t ih =>
    obtain ⟨k, w⟩ := x
    have hk : k ≠ i := hi (k, w) (by simp)
    obtain ⟨hx, ht'⟩ := List.pairwise_cons.mp ht
    unfold Table.insert
    split
    · next hlt =>
      refine List.pairwise_cons.mpr ⟨fun e he => ?_, ht⟩
      rcases List.mem_cons.mp he with he | he
      · rw [he]; exact hlt
      · exact Nat.lt_trans hlt (hx e he)
    · next hlt =>
      refine List.pairwise_cons.mpr ⟨fun e he => ?_, ih ht' fun e he => hi e (by simp [he])⟩
      rcases Table.mem_insert he with he | he
      · rw [he]; simp only; omega
      · exact hx e he

variable [DecidableEq α]

/-- A read after a write to the same index gives the value written, in any table. -/
@[simp] theorem Table.read_write_same (dflt : α) (t : Table α) (i : Nat) (v : α) :
    Table.read dflt (Table.write dflt t i v) i = v := by
  unfold Table.write
  split
  · next h => rw [Table.read_erase_same, h]
  · exact Table.read_insert_same dflt _ i v (Table.erase_ne t i)

/-- A write leaves every other index alone, in any table. -/
theorem Table.read_write_other (dflt : α) (t : Table α) {i j : Nat} (v : α) (h : j ≠ i) :
    Table.read dflt (Table.write dflt t i v) j = Table.read dflt t j := by
  unfold Table.write
  split
  · exact Table.read_erase_other dflt t h
  · rw [Table.read_insert_other dflt _ v h, Table.read_erase_other dflt t h]

theorem Table.read_write (dflt : α) (t : Table α) (i j : Nat) (v : α) :
    Table.read dflt (Table.write dflt t i v) j = if j = i then v else Table.read dflt t j := by
  split
  · next h => rw [h, Table.read_write_same]
  · next h => exact Table.read_write_other dflt t v h

theorem Table.mem_write {dflt : α} {t : Table α} {i : Nat} {v : α} {e : Nat × α}
    (h : e ∈ Table.write dflt t i v) : (e = (i, v) ∧ v ≠ dflt) ∨ e ∈ t := by
  unfold Table.write at h
  split at h
  · exact .inr (List.mem_filter.mp h).1
  · next hv =>
    rcases Table.mem_insert h with h | h
    · exact .inl ⟨h, hv⟩
    · exact .inr (List.mem_filter.mp h).1

/-- Every write inside the array keeps the canonical form. -/
theorem Table.write_canonical {dflt : α} {size : Nat} {t : Table α} (i : Nat) (v : α)
    (ht : Table.Canonical dflt size t) (hi : i < size) : Table.Canonical dflt size (Table.write dflt t i v) := by
  refine ⟨?_, fun e he => ?_⟩
  · unfold Table.write
    split
    · exact ht.1.filter _
    · exact Table.insert_sorted i v (ht.1.filter _) (Table.erase_ne t i)
  · rcases Table.mem_write he with ⟨rfl, hv⟩ | he
    · exact ⟨hi, hv⟩
    · exact ht.2 e he

/-- A filled array has the canonical form. -/
theorem Table.ofFn_canonical (dflt : α) (n : Nat) (f : Nat → α) :
    Table.Canonical dflt n (Table.ofFn dflt n f) := by
  refine ⟨List.Pairwise.filter _ (List.pairwise_map.mpr List.pairwise_lt_range), fun e he => ?_⟩
  obtain ⟨h, hne⟩ := List.mem_filter.mp he
  obtain ⟨i, hi, rfl⟩ := List.mem_map.mp h
  exact ⟨List.mem_range.mp hi, by simpa using hne⟩

/-- What a filled array lists is what `f` gives. -/
theorem Table.mem_ofFn {dflt : α} {n : Nat} {f : Nat → α} {e : Nat × α} (h : e ∈ Table.ofFn dflt n f) :
    e.2 = f e.1 := by
  obtain ⟨i, _, rfl⟩ := List.mem_map.mp (List.mem_filter.mp h).1
  rfl

end Sys2Proof
end

