-- ==== Sys2Proof/Laws/Ops.lean ====
section
/-! SUPPORT. One lemma for each shared operation, saying once all it can do. -/

namespace Sys2Proof.Machine

/-! ## Arrays of the state -/

theorem setDline_dlineAt (s : State) (r k : Nat) (l : DLine) :
    (s.setDline r l).dlineAt k = if k = r then l else s.dlineAt k := Table.read_write _ _ _ _ _

theorem setIline_ilineAt (s : State) (r k : Nat) (l : ILine) :
    (s.setIline r l).ilineAt k = if k = r then l else s.ilineAt k := Table.read_write _ _ _ _ _

theorem setTarget_targetAt (s : State) (i k : Nat) (a : Addr) :
    (s.setTarget i a).targetAt k = if k = i then a else s.targetAt k := Table.read_write _ _ _ _ _

theorem setB1_b1At (s : State) (i k : Nat) (e : B1Entry) :
    (s.setB1 i e).b1At k = if k = i then e else s.b1At k := Table.read_write _ _ _ _ _

theorem setB2_b2At (s : State) (i k : Nat) (e : B2Entry) :
    (s.setB2 i e).b2At k = if k = i then e else s.b2At k := Table.read_write _ _ _ _ _

/-! ## Counters -/

@[simp] theorem Counters.get_set_same (t : Counters) (c : Counter) (v : Count) : (t.set c v).get c = v := by
  cases c <;> rfl

theorem Counters.get_set_other (t : Counters) {c d : Counter} (v : Count) (h : d ≠ c) :
    (t.set c v).get d = t.get d := by
  cases c <;> cases d <;> first | rfl | exact absurd rfl h

@[simp] theorem Counters.get_ofFn (f : Counter → Count) (c : Counter) : (Counters.ofFn f).get c = f c := by
  cases c <;> rfl

@[simp] theorem Counters.set_get (t : Counters) (c : Counter) : t.set c (t.get c) = t := by
  cases c <;> rfl

theorem Counters.ext_get {t u : Counters} (h : ∀ c, t.get c = u.get c) : t = u := by
  obtain ⟨_, _, _, _, _, _, _, _, _, _, _, _, _, _⟩ := t
  obtain ⟨_, _, _, _, _, _, _, _, _, _, _, _, _, _⟩ := u
  have h0 := h .haz; have h1 := h .dmiss; have h2 := h .imiss; have h3 := h .unal; have h4 := h .dacc
  have h5 := h .iacc; have h6 := h .atHit; have h7 := h .atMiss; have h8 := h .ntHit; have h9 := h .ntMiss
  have ha := h .b1Hit; have hb := h .b1Miss; have hc := h .b2Hit; have hd := h .b2Miss
  simp only [Counters.get] at *
  simp [*]

@[simp] theorem setCtr_ctr_same (s : State) (c : Counter) (v : Count) : (s.setCtr c v).ctr c = v :=
  Counters.get_set_same _ _ _

theorem setCtr_ctr_other (s : State) {c d : Counter} (v : Count) (h : d ≠ c) : (s.setCtr c v).ctr d = s.ctr d :=
  Counters.get_set_other _ _ h

/-- Counting touches no other counter. -/
theorem count_ctr_other {c d : Counter} (n : Nat) (s : State) (h : d ≠ c) : (count c n s).ctr d = s.ctr d := by
  unfold count
  split
  · exact setCtr_ctr_other _ _ h
  · exact setCtr_ctr_other s _ h

/-- Counting stores the exact sum while it stays within 64 bits (10_state.md R32). -/
theorem count_ctr_same (c : Counter) (n : Nat) (s : State) (h : (s.ctr c).toNat + n < 2 ^ 64) :
    ((count c n s).ctr c).toNat = (s.ctr c).toNat + n := by
  unfold count
  rw [if_pos h, setCtr_ctr_same, BitVec.toNat_ofNat, Nat.mod_eq_of_lt h]

/-- Counting by nothing does nothing. -/
@[simp] theorem count_zero (c : Counter) (s : State) : count c 0 s = s := by
  have h : (s.ctr c).toNat + 0 < 2 ^ 64 := by simpa using (s.ctr c).isLt
  unfold count
  rw [if_pos h, Nat.add_zero, BitVec.ofNat_toNat, BitVec.setWidth_eq]
  show { s with ctrs := s.ctrs.set c (s.ctrs.get c) } = s
  rw [Counters.set_get]

/-- All that counting can change: the counter file and the draw counter. -/
theorem count_eq (c : Counter) (n : Nat) (s : State) :
    count c n s = { s with ctrs := (count c n s).ctrs, draws := (count c n s).draws } := by
  unfold count
  split <;> rfl

/-- What counting leaves of the counters and of the draw counter depends on those two only. -/
theorem count_congr (c : Counter) (n : Nat) {s t : State} (h : s.ctrs = t.ctrs) (hd : s.draws = t.draws) :
    (count c n s).ctrs = (count c n t).ctrs ∧ (count c n s).draws = (count c n t).draws := by
  have e : s.ctr c = t.ctr c := congrArg (Counters.get · c) h
  unfold count
  rw [e]
  split
  · exact ⟨congrArg (Counters.set · c _) h, hd⟩
  · exact ⟨by show s.ctrs.set c _ = t.ctrs.set c _; rw [h, hd], congrArg (· + 1) hd⟩

/-- Without a carry out nothing is drawn. -/
theorem count_draws (c : Counter) (n : Nat) (s : State) (h : (s.ctr c).toNat + n < 2 ^ 64) :
    (count c n s).draws = s.draws := by
  unfold count
  rw [if_pos h]
  rfl

/-! ## Faults -/

theorem latch_of_none {t : Status} (c : FaultCode) (h : t.fault = .none) : t.latch c = { t with fault := c } := by
  simp [Status.latch, h]

theorem latch_of_some {t : Status} (c : FaultCode) (h : t.fault ≠ .none) : t.latch c = t := by
  simp [Status.latch, h]

@[simp] theorem latch_armed (t : Status) (c : FaultCode) : (t.latch c).armed = t.armed := by
  unfold Status.latch; split <;> rfl

@[simp] theorem latch_ready (t : Status) (c : FaultCode) : (t.latch c).ready = t.ready := by
  unfold Status.latch; split <;> rfl

theorem latch_fault (t : Status) (c : FaultCode) :
    (t.latch c).fault = if t.fault = .none then c else t.fault := by
  unfold Status.latch; split <;> rfl

@[simp] theorem setArmed_armed (t : Status) (b : Bool) : (t.setArmed b).armed = b := rfl
@[simp] theorem setArmed_ready (t : Status) (b : Bool) : (t.setArmed b).ready = t.ready := rfl
@[simp] theorem setArmed_fault (t : Status) (b : Bool) : (t.setArmed b).fault = t.fault := rfl

/-! ## The common precondition -/

/-- All that a command under the common precondition can do (60_exceptions.md R176). -/
theorem whenRunning_cases (act : State → State) (s : State) :
    (s.status.ready = false ∧ whenRunning act s = raise .notReady (quiet s)) ∨
    (s.status.ready = true ∧ s.status.fault ≠ .none ∧ whenRunning act s = quiet s) ∨
    (s.status.ready = true ∧ s.status.fault = .none ∧ whenRunning act s = act (quiet s)) := by
  unfold whenRunning
  by_cases hr : s.status.ready = false
  · exact .inl ⟨hr, by rw [if_pos hr]⟩
  · have hr' : s.status.ready = true := by simpa using hr
    by_cases hf : s.status.fault = .none
    · exact .inr (.inr ⟨hr', hf, by rw [if_neg hr, if_neg (not_not.mpr hf)]⟩)
    · exact .inr (.inl ⟨hr', hf, by rw [if_neg hr, if_pos hf]⟩)

theorem whenRunning_running (act : State → State) (s : State) (hr : s.status.ready = true)
    (hf : s.status.fault = .none) : whenRunning act s = act (quiet s) := by
  simp [whenRunning, hr, hf]

theorem whenRunning_frozen (act : State → State) (s : State) (hr : s.status.ready = true)
    (hf : s.status.fault ≠ .none) : whenRunning act s = quiet s := by
  simp [whenRunning, hr, hf]

theorem whenRunning_notReady (act : State → State) (s : State) (hr : s.status.ready = false) :
    whenRunning act s = raise .notReady (quiet s) := by
  simp [whenRunning, hr]

/-- A property of states that the raise of NOT_READY, the freeze and the command's own effect all keep is kept. -/
theorem whenRunning_keeps {P : State → Prop} {act : State → State} {s : State}
    (hraise : s.status.ready = false → P (raise .notReady (quiet s))) (hquiet : P (quiet s))
    (hact : s.status.ready = true → s.status.fault = .none → P (act (quiet s))) : P (whenRunning act s) := by
  rcases whenRunning_cases act s with ⟨h, e⟩ | ⟨_, _, e⟩ | ⟨h, hf, e⟩
  · exact e ▸ hraise h
  · exact e ▸ hquiet
  · exact e ▸ hact h hf

/-! ## Reset -/

/-- RESET leaves what the state right after reset holds; the model's own fields stay (43_control.md R160). -/
theorem initialise_eq (s : State) :
    initialise s = { State.afterReset s.cfg with rsp := s.rsp, draws := s.draws, inputs := s.inputs } := rfl

end Sys2Proof.Machine
end

