-- ==== Sys2Proof/Laws/Branch.lean ====
section
/-! SUPPORT. What the strategies' updates of 42_branch.md can do. -/

namespace Sys2Proof.Machine

/-- The counters of a strategy's update: one of the strategy's two, by one (42_branch.md R140). -/
theorem scoreB1_ctr (i : Nat) (r : Scored B1Entry) (s : State) (c : Counter) :
    (scoreB1 i r s).ctr c = (count (if r.hit then .b1Hit else .b1Miss) 1 s).ctr c := rfl

theorem scoreB2_ctr (i : Nat) (r : Scored B2Entry) (s : State) (c : Counter) :
    (scoreB2 i r s).ctr c = (count (if r.hit then .b2Hit else .b2Miss) 1 s).ctr c := rfl

theorem atTaken_ctr (i : Nat) (tgt : Addr) (s : State) (c : Counter) :
    (atTaken i tgt s).ctr c = (count .atHit 1 s).ctr c := rfl

theorem scoreB1_b1At (i : Nat) (r : Scored B1Entry) (s : State) (j : Nat) :
    (scoreB1 i r s).b1At j = if j = i then r.entry else s.b1At j := by
  unfold scoreB1; rw [setB1_b1At, count_b1At]

theorem scoreB2_b2At (i : Nat) (r : Scored B2Entry) (s : State) (j : Nat) :
    (scoreB2 i r s).b2At j = if j = i then r.entry else s.b2At j := by
  unfold scoreB2; rw [setB2_b2At, count_b2At]

theorem atTaken_targetAt (i : Nat) (tgt : Addr) (s : State) (j : Nat) :
    (atTaken i tgt s).targetAt j = if j = i then tgt else s.targetAt j := by
  unfold atTaken; rw [setTarget_targetAt, count_targetAt]

@[simp] theorem scoreB1_b2At (i : Nat) (r : Scored B1Entry) (s : State) (j : Nat) :
    (scoreB1 i r s).b2At j = s.b2At j := by unfold scoreB1; simp
@[simp] theorem scoreB1_targetAt (i : Nat) (r : Scored B1Entry) (s : State) (j : Nat) :
    (scoreB1 i r s).targetAt j = s.targetAt j := by unfold scoreB1; simp
@[simp] theorem scoreB2_b1At (i : Nat) (r : Scored B2Entry) (s : State) (j : Nat) :
    (scoreB2 i r s).b1At j = s.b1At j := by unfold scoreB2; simp
@[simp] theorem scoreB2_targetAt (i : Nat) (r : Scored B2Entry) (s : State) (j : Nat) :
    (scoreB2 i r s).targetAt j = s.targetAt j := by unfold scoreB2; simp
@[simp] theorem atTaken_b1At (i : Nat) (tgt : Addr) (s : State) (j : Nat) :
    (atTaken i tgt s).b1At j = s.b1At j := by unfold atTaken; simp
@[simp] theorem atTaken_b2At (i : Nat) (tgt : Addr) (s : State) (j : Nat) :
    (atTaken i tgt s).b2At j = s.b2At j := by unfold atTaken; simp

/-- All that BTAKEN's procedure can change (42_branch.md R141). -/
theorem branchTaken_eq (i : Nat) (tgt : Addr) (s : State) :
    branchTaken i tgt s = { s with
      atTgt := (branchTaken i tgt s).atTgt, b1 := (branchTaken i tgt s).b1, b2 := (branchTaken i tgt s).b2,
      ctrs := (branchTaken i tgt s).ctrs, draws := (branchTaken i tgt s).draws } := by
  unfold branchTaken scoreB2Taken scoreB1Taken scoreB2 scoreB1 ntTaken atTaken
  rw [count_eq (c := if (b2Taken _ _).hit = true then Counter.b2Hit else Counter.b2Miss)]
  simp only [State.setB2, State.setB1, State.setTarget, count_cfg, count_cur, count_prev, count_dline, count_iline,
    count_atTgt, count_b1, count_b2, count_status, count_rsp, count_inputs]

/-- All that BNTAKEN's procedure can change (42_branch.md R149). -/
theorem branchNotTaken_eq (i : Nat) (nt : Addr) (s : State) :
    branchNotTaken i nt s = { s with
      b1 := (branchNotTaken i nt s).b1, b2 := (branchNotTaken i nt s).b2,
      ctrs := (branchNotTaken i nt s).ctrs, draws := (branchNotTaken i nt s).draws } := by
  unfold branchNotTaken scoreB2NotTaken scoreB1NotTaken scoreB2 scoreB1 ntNotTaken atNotTaken
  rw [count_eq (c := if (b2NotTaken _ _).hit = true then Counter.b2Hit else Counter.b2Miss)]
  simp only [State.setB2, State.setB1, count_cfg, count_cur, count_prev, count_dline, count_iline,
    count_atTgt, count_b1, count_b2, count_status, count_rsp, count_inputs]

/-! ## What the procedures leave of each field -/

@[simp] theorem branchTaken_cfg (i : Nat) (tgt : Addr) (s : State) : (branchTaken i tgt s).cfg = s.cfg := by
  rw [branchTaken_eq]
@[simp] theorem branchTaken_cur (i : Nat) (tgt : Addr) (s : State) : (branchTaken i tgt s).cur = s.cur := by
  rw [branchTaken_eq]
@[simp] theorem branchTaken_prev (i : Nat) (tgt : Addr) (s : State) : (branchTaken i tgt s).prev = s.prev := by
  rw [branchTaken_eq]
@[simp] theorem branchTaken_dline (i : Nat) (tgt : Addr) (s : State) : (branchTaken i tgt s).dline = s.dline := by
  rw [branchTaken_eq]
@[simp] theorem branchTaken_iline (i : Nat) (tgt : Addr) (s : State) : (branchTaken i tgt s).iline = s.iline := by
  rw [branchTaken_eq]
@[simp] theorem branchTaken_status (i : Nat) (tgt : Addr) (s : State) : (branchTaken i tgt s).status = s.status := by
  rw [branchTaken_eq]
@[simp] theorem branchTaken_rsp (i : Nat) (tgt : Addr) (s : State) : (branchTaken i tgt s).rsp = s.rsp := by
  rw [branchTaken_eq]
@[simp] theorem branchTaken_inputs (i : Nat) (tgt : Addr) (s : State) : (branchTaken i tgt s).inputs = s.inputs := by
  rw [branchTaken_eq]
@[simp] theorem branchTaken_dlineAt (i : Nat) (tgt : Addr) (s : State) (j : Nat) : (branchTaken i tgt s).dlineAt j = s.dlineAt j := by
  simp [State.dlineAt]
@[simp] theorem branchTaken_ilineAt (i : Nat) (tgt : Addr) (s : State) (j : Nat) : (branchTaken i tgt s).ilineAt j = s.ilineAt j := by
  simp [State.ilineAt]

@[simp] theorem branchNotTaken_cfg (i : Nat) (nt : Addr) (s : State) : (branchNotTaken i nt s).cfg = s.cfg := by
  rw [branchNotTaken_eq]
@[simp] theorem branchNotTaken_cur (i : Nat) (nt : Addr) (s : State) : (branchNotTaken i nt s).cur = s.cur := by
  rw [branchNotTaken_eq]
@[simp] theorem branchNotTaken_prev (i : Nat) (nt : Addr) (s : State) : (branchNotTaken i nt s).prev = s.prev := by
  rw [branchNotTaken_eq]
@[simp] theorem branchNotTaken_dline (i : Nat) (nt : Addr) (s : State) : (branchNotTaken i nt s).dline = s.dline := by
  rw [branchNotTaken_eq]
@[simp] theorem branchNotTaken_iline (i : Nat) (nt : Addr) (s : State) : (branchNotTaken i nt s).iline = s.iline := by
  rw [branchNotTaken_eq]
@[simp] theorem branchNotTaken_atTgt (i : Nat) (nt : Addr) (s : State) : (branchNotTaken i nt s).atTgt = s.atTgt := by
  rw [branchNotTaken_eq]
@[simp] theorem branchNotTaken_status (i : Nat) (nt : Addr) (s : State) : (branchNotTaken i nt s).status = s.status := by
  rw [branchNotTaken_eq]
@[simp] theorem branchNotTaken_rsp (i : Nat) (nt : Addr) (s : State) : (branchNotTaken i nt s).rsp = s.rsp := by
  rw [branchNotTaken_eq]
@[simp] theorem branchNotTaken_inputs (i : Nat) (nt : Addr) (s : State) : (branchNotTaken i nt s).inputs = s.inputs := by
  rw [branchNotTaken_eq]
@[simp] theorem branchNotTaken_dlineAt (i : Nat) (nt : Addr) (s : State) (j : Nat) : (branchNotTaken i nt s).dlineAt j = s.dlineAt j := by
  simp [State.dlineAt]
@[simp] theorem branchNotTaken_ilineAt (i : Nat) (nt : Addr) (s : State) (j : Nat) : (branchNotTaken i nt s).ilineAt j = s.ilineAt j := by
  simp [State.ilineAt]
@[simp] theorem branchNotTaken_targetAt (i : Nat) (nt : Addr) (s : State) (j : Nat) : (branchNotTaken i nt s).targetAt j = s.targetAt j := by
  simp [State.targetAt]

/-! ## The entries and the counters after the procedures -/

theorem branchTaken_targetAt (i : Nat) (tgt : Addr) (s : State) (j : Nat) :
    (branchTaken i tgt s).targetAt j = if j = i then tgt else s.targetAt j := by
  simp [branchTaken, scoreB2Taken, scoreB1Taken, ntTaken, atTaken_targetAt]

theorem branchTaken_b1At (i : Nat) (tgt : Addr) (s : State) (j : Nat) :
    (branchTaken i tgt s).b1At j = if j = i then (b1Taken (s.b1At i) tgt).entry else s.b1At j := by
  simp [branchTaken, scoreB2Taken, scoreB1Taken, ntTaken, scoreB1_b1At]

theorem branchTaken_b2At (i : Nat) (tgt : Addr) (s : State) (j : Nat) :
    (branchTaken i tgt s).b2At j = if j = i then (b2Taken (s.b2At i) tgt).entry else s.b2At j := by
  simp [branchTaken, scoreB2Taken, scoreB1Taken, ntTaken, scoreB2_b2At]

theorem branchNotTaken_b1At (i : Nat) (nt : Addr) (s : State) (j : Nat) :
    (branchNotTaken i nt s).b1At j = if j = i then (b1NotTaken (s.b1At i) nt).entry else s.b1At j := by
  simp [branchNotTaken, scoreB2NotTaken, scoreB1NotTaken, ntNotTaken, atNotTaken, scoreB1_b1At]

theorem branchNotTaken_b2At (i : Nat) (nt : Addr) (s : State) (j : Nat) :
    (branchNotTaken i nt s).b2At j = if j = i then (b2NotTaken (s.b2At i) nt).entry else s.b2At j := by
  simp [branchNotTaken, scoreB2NotTaken, scoreB1NotTaken, ntNotTaken, atNotTaken, scoreB2_b2At]

/-! ## The counters after the procedures -/

/-- The counters of BTAKEN, one of each strategy's pair (42_branch.md R140). -/
theorem branchTaken_ctr (i : Nat) (tgt : Addr) (s : State) (c : Counter) :
    (branchTaken i tgt s).ctr c =
      (count (if (b2Taken (s.b2At i) tgt).hit then .b2Hit else .b2Miss) 1
        (count (if (b1Taken (s.b1At i) tgt).hit then .b1Hit else .b1Miss) 1
          (count .ntMiss 1 (count .atHit 1 s)))).ctr c := by
  have h1 := count_congr .ntMiss 1 (s := atTaken i tgt s) (t := count .atHit 1 s) rfl rfl
  have h2 := count_congr (if (b1Taken (s.b1At i) tgt).hit then .b1Hit else .b1Miss) 1 h1.1 h1.2
  have h3 := count_congr (if (b2Taken (s.b2At i) tgt).hit then .b2Hit else .b2Miss) 1
    (s := scoreB1 i (b1Taken (s.b1At i) tgt) (ntTaken (atTaken i tgt s))) h2.1 h2.2
  unfold branchTaken scoreB2Taken
  rw [scoreB2_ctr]
  refine Eq.trans ?_ (congrArg (Counters.get · c) h3.1)
  unfold scoreB1Taken ntTaken
  simp only [scoreB1_b2At, count_b2At, count_b1At, atTaken_b2At, atTaken_b1At]
  rfl

/-- The counters of BNTAKEN, one of each strategy's pair (42_branch.md R140). -/
theorem branchNotTaken_ctr (i : Nat) (nt : Addr) (s : State) (c : Counter) :
    (branchNotTaken i nt s).ctr c =
      (count (if (b2NotTaken (s.b2At i) nt).hit then .b2Hit else .b2Miss) 1
        (count (if (b1NotTaken (s.b1At i) nt).hit then .b1Hit else .b1Miss) 1
          (count .ntHit 1 (count .atMiss 1 s)))).ctr c := by
  have h3 := count_congr (if (b2NotTaken (s.b2At i) nt).hit then .b2Hit else .b2Miss) 1
    (s := scoreB1 i (b1NotTaken (s.b1At i) nt) (ntNotTaken (atNotTaken s)))
    (t := count (if (b1NotTaken (s.b1At i) nt).hit then .b1Hit else .b1Miss) 1 (count .ntHit 1 (count .atMiss 1 s)))
    rfl rfl
  unfold branchNotTaken scoreB2NotTaken
  rw [scoreB2_ctr]
  refine Eq.trans ?_ (congrArg (Counters.get · c) h3.1)
  unfold scoreB1NotTaken ntNotTaken atNotTaken
  simp only [scoreB1_b2At, count_b2At, count_b1At]
  rfl

end Sys2Proof.Machine
end

