-- ==== Sys2Proof/Laws/Cache.lean ====
section
/-! SUPPORT. What the line accesses of 41_cache.md can do. -/

namespace Sys2Proof.Machine

/-- The read line access changes one line and the counter file (41_cache.md R121). -/
theorem readLine_eq (a : Addr) (s : State) :
    readLine a s = { s with
      dline := (readLine a s).dline, ctrs := (readLine a s).ctrs, draws := (readLine a s).draws } := by
  unfold readLine
  rw [count_eq]
  rfl

/-- The write line access changes one line and the counter file (41_cache.md R124). -/
theorem writeLine_eq (a : Addr) (s : State) :
    writeLine a s = { s with
      dline := (writeLine a s).dline, ctrs := (writeLine a s).ctrs, draws := (writeLine a s).draws } := by
  unfold writeLine
  rw [count_eq]
  rfl

theorem readLine_dlineAt (a : Addr) (s : State) (r : Nat) :
    (readLine a s).dlineAt r =
      if r = rowOf s.cfg.dcache a then readLineAfter (tagOf s.cfg.dcache a) else s.dlineAt r := by
  unfold readLine
  rw [setDline_dlineAt, count_dlineAt]

theorem writeLine_dlineAt (a : Addr) (s : State) (r : Nat) :
    (writeLine a s).dlineAt r =
      if r = rowOf s.cfg.dcache a then
        writeLineAfter (s.dlineAt (rowOf s.cfg.dcache a)) (tagOf s.cfg.dcache a)
      else s.dlineAt r := by
  unfold writeLine
  rw [setDline_dlineAt, count_dlineAt]

theorem readLine_ctr (a : Addr) (s : State) (c : Counter) :
    (readLine a s).ctr c =
      (count .dmiss (readCost (s.dlineAt (rowOf s.cfg.dcache a)) (tagOf s.cfg.dcache a)) s).ctr c := rfl

theorem writeLine_ctr (a : Addr) (s : State) (c : Counter) :
    (writeLine a s).ctr c =
      (count .dmiss (writeCost (s.dlineAt (rowOf s.cfg.dcache a)) (tagOf s.cfg.dcache a)) s).ctr c := rfl

theorem readLine_ctr_other (a : Addr) (s : State) {c : Counter} (h : c ≠ .dmiss) :
    (readLine a s).ctr c = s.ctr c := by rw [readLine_ctr, count_ctr_other _ _ h]

theorem writeLine_ctr_other (a : Addr) (s : State) {c : Counter} (h : c ≠ .dmiss) :
    (writeLine a s).ctr c = s.ctr c := by rw [writeLine_ctr, count_ctr_other _ _ h]

theorem readCost_le (l : DLine) (t : BitVec 32) : readCost l t ≤ 2 := by
  unfold readCost; split <;> [omega; split <;> [split <;> omega; omega]]

theorem writeCost_le (l : DLine) (t : BitVec 32) : writeCost l t ≤ 1 := by
  unfold writeCost; split <;> omega

theorem fetchCost_le (l : ILine) (t : BitVec 32) : fetchCost l t ≤ 1 := by
  unfold fetchCost; split <;> omega

/-- The tail does one of three things: nothing for an aligned address, UNAL for an unaligned one that stays in its
line, UNAL and one spill access otherwise (41_cache.md R123, R126). -/
theorem unalignedTail_cases (a : Addr) (line : Addr → State → State) (s : State) :
    (unaligned a = false ∧ unalignedTail a line s = s) ∨
    (unaligned a = true ∧ lastWord s.cfg.dcache a = false ∧ unalignedTail a line s = count .unal 1 s) ∨
    (unaligned a = true ∧ lastWord s.cfg.dcache a = true ∧
      unalignedTail a line s = line (spill a) (count .unal 1 s)) := by
  unfold unalignedTail
  by_cases hu : unaligned a = true
  · by_cases hl : lastWord s.cfg.dcache a = true
    · exact .inr (.inr ⟨hu, hl, by rw [if_pos hu, if_pos hl]⟩)
    · exact .inr (.inl ⟨hu, by simpa using hl, by rw [if_pos hu, if_neg hl]⟩)
  · exact .inl ⟨by simpa using hu, by rw [if_neg hu]⟩

/-- A property that the counting and the line access keep is kept by a data command. -/
theorem dataAccess_keeps {P : State → Prop} {line : Addr → State → State} {a : Addr} {s : State}
    (hcount : ∀ c n t, P t → P (count c n t)) (hline : ∀ b t, P t → P (line b t)) (hs : P s) :
    P (dataAccess line a s) := by
  unfold dataAccess
  have h1 := hline a _ (hcount .dacc 1 s hs)
  rcases unalignedTail_cases a line (line a (count .dacc 1 s)) with ⟨_, e⟩ | ⟨_, _, e⟩ | ⟨_, _, e⟩ <;> rw [e]
  · exact h1
  · exact hcount _ _ _ h1
  · exact hline _ _ (hcount _ _ _ h1)

/-- The fetch line access changes one line and the counter file (41_cache.md R127). -/
theorem fetchLine_eq (a : Addr) (s : State) :
    fetchLine a s = { s with
      iline := (fetchLine a s).iline, ctrs := (fetchLine a s).ctrs, draws := (fetchLine a s).draws } := by
  unfold fetchLine
  rw [count_eq]
  rfl

theorem fetchLine_ilineAt (a : Addr) (s : State) (r : Nat) :
    (fetchLine a s).ilineAt r =
      if r = rowOf s.cfg.icache a then { tag := tagOf s.cfg.icache a, valid := true } else s.ilineAt r := by
  unfold fetchLine
  rw [setIline_ilineAt, count_ilineAt]

theorem fetchLine_ctr (a : Addr) (s : State) (c : Counter) :
    (fetchLine a s).ctr c =
      (count .imiss (fetchCost (s.ilineAt (rowOf s.cfg.icache a)) (tagOf s.cfg.icache a)) s).ctr c := rfl

/-! ## What the line accesses leave of each field -/

@[simp] theorem readLine_cfg (a : Addr) (s : State) : (readLine a s).cfg = s.cfg := by
  rw [readLine_eq]
@[simp] theorem readLine_cur (a : Addr) (s : State) : (readLine a s).cur = s.cur := by
  rw [readLine_eq]
@[simp] theorem readLine_prev (a : Addr) (s : State) : (readLine a s).prev = s.prev := by
  rw [readLine_eq]
@[simp] theorem readLine_iline (a : Addr) (s : State) : (readLine a s).iline = s.iline := by
  rw [readLine_eq]
@[simp] theorem readLine_atTgt (a : Addr) (s : State) : (readLine a s).atTgt = s.atTgt := by
  rw [readLine_eq]
@[simp] theorem readLine_b1 (a : Addr) (s : State) : (readLine a s).b1 = s.b1 := by
  rw [readLine_eq]
@[simp] theorem readLine_b2 (a : Addr) (s : State) : (readLine a s).b2 = s.b2 := by
  rw [readLine_eq]
@[simp] theorem readLine_status (a : Addr) (s : State) : (readLine a s).status = s.status := by
  rw [readLine_eq]
@[simp] theorem readLine_rsp (a : Addr) (s : State) : (readLine a s).rsp = s.rsp := by
  rw [readLine_eq]
@[simp] theorem readLine_inputs (a : Addr) (s : State) : (readLine a s).inputs = s.inputs := by
  rw [readLine_eq]
@[simp] theorem readLine_ilineAt (a : Addr) (s : State) (j : Nat) : (readLine a s).ilineAt j = s.ilineAt j := by
  simp [State.ilineAt]
@[simp] theorem readLine_targetAt (a : Addr) (s : State) (j : Nat) : (readLine a s).targetAt j = s.targetAt j := by
  simp [State.targetAt]
@[simp] theorem readLine_b1At (a : Addr) (s : State) (j : Nat) : (readLine a s).b1At j = s.b1At j := by
  simp [State.b1At]
@[simp] theorem readLine_b2At (a : Addr) (s : State) (j : Nat) : (readLine a s).b2At j = s.b2At j := by
  simp [State.b2At]

@[simp] theorem writeLine_cfg (a : Addr) (s : State) : (writeLine a s).cfg = s.cfg := by
  rw [writeLine_eq]
@[simp] theorem writeLine_cur (a : Addr) (s : State) : (writeLine a s).cur = s.cur := by
  rw [writeLine_eq]
@[simp] theorem writeLine_prev (a : Addr) (s : State) : (writeLine a s).prev = s.prev := by
  rw [writeLine_eq]
@[simp] theorem writeLine_iline (a : Addr) (s : State) : (writeLine a s).iline = s.iline := by
  rw [writeLine_eq]
@[simp] theorem writeLine_atTgt (a : Addr) (s : State) : (writeLine a s).atTgt = s.atTgt := by
  rw [writeLine_eq]
@[simp] theorem writeLine_b1 (a : Addr) (s : State) : (writeLine a s).b1 = s.b1 := by
  rw [writeLine_eq]
@[simp] theorem writeLine_b2 (a : Addr) (s : State) : (writeLine a s).b2 = s.b2 := by
  rw [writeLine_eq]
@[simp] theorem writeLine_status (a : Addr) (s : State) : (writeLine a s).status = s.status := by
  rw [writeLine_eq]
@[simp] theorem writeLine_rsp (a : Addr) (s : State) : (writeLine a s).rsp = s.rsp := by
  rw [writeLine_eq]
@[simp] theorem writeLine_inputs (a : Addr) (s : State) : (writeLine a s).inputs = s.inputs := by
  rw [writeLine_eq]
@[simp] theorem writeLine_ilineAt (a : Addr) (s : State) (j : Nat) : (writeLine a s).ilineAt j = s.ilineAt j := by
  simp [State.ilineAt]
@[simp] theorem writeLine_targetAt (a : Addr) (s : State) (j : Nat) : (writeLine a s).targetAt j = s.targetAt j := by
  simp [State.targetAt]
@[simp] theorem writeLine_b1At (a : Addr) (s : State) (j : Nat) : (writeLine a s).b1At j = s.b1At j := by
  simp [State.b1At]
@[simp] theorem writeLine_b2At (a : Addr) (s : State) (j : Nat) : (writeLine a s).b2At j = s.b2At j := by
  simp [State.b2At]

@[simp] theorem fetchLine_cfg (a : Addr) (s : State) : (fetchLine a s).cfg = s.cfg := by
  rw [fetchLine_eq]
@[simp] theorem fetchLine_cur (a : Addr) (s : State) : (fetchLine a s).cur = s.cur := by
  rw [fetchLine_eq]
@[simp] theorem fetchLine_prev (a : Addr) (s : State) : (fetchLine a s).prev = s.prev := by
  rw [fetchLine_eq]
@[simp] theorem fetchLine_dline (a : Addr) (s : State) : (fetchLine a s).dline = s.dline := by
  rw [fetchLine_eq]
@[simp] theorem fetchLine_atTgt (a : Addr) (s : State) : (fetchLine a s).atTgt = s.atTgt := by
  rw [fetchLine_eq]
@[simp] theorem fetchLine_b1 (a : Addr) (s : State) : (fetchLine a s).b1 = s.b1 := by
  rw [fetchLine_eq]
@[simp] theorem fetchLine_b2 (a : Addr) (s : State) : (fetchLine a s).b2 = s.b2 := by
  rw [fetchLine_eq]
@[simp] theorem fetchLine_status (a : Addr) (s : State) : (fetchLine a s).status = s.status := by
  rw [fetchLine_eq]
@[simp] theorem fetchLine_rsp (a : Addr) (s : State) : (fetchLine a s).rsp = s.rsp := by
  rw [fetchLine_eq]
@[simp] theorem fetchLine_inputs (a : Addr) (s : State) : (fetchLine a s).inputs = s.inputs := by
  rw [fetchLine_eq]
@[simp] theorem fetchLine_dlineAt (a : Addr) (s : State) (j : Nat) : (fetchLine a s).dlineAt j = s.dlineAt j := by
  simp [State.dlineAt]
@[simp] theorem fetchLine_targetAt (a : Addr) (s : State) (j : Nat) : (fetchLine a s).targetAt j = s.targetAt j := by
  simp [State.targetAt]
@[simp] theorem fetchLine_b1At (a : Addr) (s : State) (j : Nat) : (fetchLine a s).b1At j = s.b1At j := by
  simp [State.b1At]
@[simp] theorem fetchLine_b2At (a : Addr) (s : State) (j : Nat) : (fetchLine a s).b2At j = s.b2At j := by
  simp [State.b2At]

/-! ## Data commands -/

/-- All that DREAD's procedure can change (41_cache.md R120). -/
theorem dataRead_eq (a : Addr) (s : State) :
    dataAccess readLine a s = { s with
      dline := (dataAccess readLine a s).dline, ctrs := (dataAccess readLine a s).ctrs,
      draws := (dataAccess readLine a s).draws } := by
  unfold dataAccess
  rcases unalignedTail_cases a readLine (readLine a (count .dacc 1 s)) with ⟨_, e⟩ | ⟨_, _, e⟩ | ⟨_, _, e⟩ <;> rw [e]
  · rw [readLine_eq, count_eq]
  · rw [count_eq, readLine_eq, count_eq]
  · rw [readLine_eq, count_eq, readLine_eq, count_eq]

/-- All that DWRITE's procedure can change (41_cache.md R125). -/
theorem dataWrite_eq (a : Addr) (s : State) :
    dataAccess writeLine a s = { s with
      dline := (dataAccess writeLine a s).dline, ctrs := (dataAccess writeLine a s).ctrs,
      draws := (dataAccess writeLine a s).draws } := by
  unfold dataAccess
  rcases unalignedTail_cases a writeLine (writeLine a (count .dacc 1 s)) with ⟨_, e⟩ | ⟨_, _, e⟩ | ⟨_, _, e⟩ <;> rw [e]
  · rw [writeLine_eq, count_eq]
  · rw [count_eq, writeLine_eq, count_eq]
  · rw [writeLine_eq, count_eq, writeLine_eq, count_eq]

/-- A data command counts in its three counters only. -/
theorem dataAccess_ctr_other {line : Addr → State → State} (a : Addr) (s : State) {c : Counter}
    (hl : ∀ b t, (line b t).ctr c = t.ctr c) (hd : c ≠ .dacc) (hu : c ≠ .unal) :
    (dataAccess line a s).ctr c = s.ctr c := by
  unfold dataAccess
  rcases unalignedTail_cases a line (line a (count .dacc 1 s)) with ⟨_, e⟩ | ⟨_, _, e⟩ | ⟨_, _, e⟩ <;> rw [e]
  · rw [hl, count_ctr_other _ _ hd]
  · rw [count_ctr_other _ _ hu, hl, count_ctr_other _ _ hd]
  · rw [hl, count_ctr_other _ _ hu, hl, count_ctr_other _ _ hd]

@[simp] theorem dataRead_cfg (a : Addr) (s : State) : (dataAccess readLine a s).cfg = s.cfg := by
  rw [dataRead_eq]
@[simp] theorem dataRead_cur (a : Addr) (s : State) : (dataAccess readLine a s).cur = s.cur := by
  rw [dataRead_eq]
@[simp] theorem dataRead_prev (a : Addr) (s : State) : (dataAccess readLine a s).prev = s.prev := by
  rw [dataRead_eq]
@[simp] theorem dataRead_iline (a : Addr) (s : State) : (dataAccess readLine a s).iline = s.iline := by
  rw [dataRead_eq]
@[simp] theorem dataRead_atTgt (a : Addr) (s : State) : (dataAccess readLine a s).atTgt = s.atTgt := by
  rw [dataRead_eq]
@[simp] theorem dataRead_b1 (a : Addr) (s : State) : (dataAccess readLine a s).b1 = s.b1 := by
  rw [dataRead_eq]
@[simp] theorem dataRead_b2 (a : Addr) (s : State) : (dataAccess readLine a s).b2 = s.b2 := by
  rw [dataRead_eq]
@[simp] theorem dataRead_status (a : Addr) (s : State) : (dataAccess readLine a s).status = s.status := by
  rw [dataRead_eq]
@[simp] theorem dataRead_rsp (a : Addr) (s : State) : (dataAccess readLine a s).rsp = s.rsp := by
  rw [dataRead_eq]
@[simp] theorem dataRead_inputs (a : Addr) (s : State) : (dataAccess readLine a s).inputs = s.inputs := by
  rw [dataRead_eq]

@[simp] theorem dataWrite_cfg (a : Addr) (s : State) : (dataAccess writeLine a s).cfg = s.cfg := by
  rw [dataWrite_eq]
@[simp] theorem dataWrite_cur (a : Addr) (s : State) : (dataAccess writeLine a s).cur = s.cur := by
  rw [dataWrite_eq]
@[simp] theorem dataWrite_prev (a : Addr) (s : State) : (dataAccess writeLine a s).prev = s.prev := by
  rw [dataWrite_eq]
@[simp] theorem dataWrite_iline (a : Addr) (s : State) : (dataAccess writeLine a s).iline = s.iline := by
  rw [dataWrite_eq]
@[simp] theorem dataWrite_atTgt (a : Addr) (s : State) : (dataAccess writeLine a s).atTgt = s.atTgt := by
  rw [dataWrite_eq]
@[simp] theorem dataWrite_b1 (a : Addr) (s : State) : (dataAccess writeLine a s).b1 = s.b1 := by
  rw [dataWrite_eq]
@[simp] theorem dataWrite_b2 (a : Addr) (s : State) : (dataAccess writeLine a s).b2 = s.b2 := by
  rw [dataWrite_eq]
@[simp] theorem dataWrite_status (a : Addr) (s : State) : (dataAccess writeLine a s).status = s.status := by
  rw [dataWrite_eq]
@[simp] theorem dataWrite_rsp (a : Addr) (s : State) : (dataAccess writeLine a s).rsp = s.rsp := by
  rw [dataWrite_eq]
@[simp] theorem dataWrite_inputs (a : Addr) (s : State) : (dataAccess writeLine a s).inputs = s.inputs := by
  rw [dataWrite_eq]

end Sys2Proof.Machine
end

