-- ==== Sys2Proof/Laws/Component.lean ====
section
/-! SUPPORT. What belongs to a component: agreement of two states in it, and a stream's commands of it. -/

namespace Sys2Proof.Machine

theorem sameIn_refl (k : Component) (s : State) : SameIn k s s :=
  ⟨by cases k <;> simp [SameElements], fun _ _ => rfl⟩

theorem sameIn_symm {k : Component} {s t : State} (h : SameIn k s t) : SameIn k t s :=
  ⟨by have := h.1; cases k <;> simp_all [SameElements], fun c hc => (h.2 c hc).symm⟩

theorem sameIn_trans {k : Component} {s t u : State} (h : SameIn k s t) (g : SameIn k t u) : SameIn k s u :=
  ⟨by have := h.1; have := g.1; cases k <;> simp_all [SameElements], fun c hc => (h.2 c hc).trans (g.2 c hc)⟩

/-- Counting in a counter depends on that counter and on the draw counter only. -/
theorem count_ctr_congr (c : Counter) (n : Nat) {s t : State} (h : s.ctr c = t.ctr c) (hd : s.draws = t.draws) :
    (count c n s).ctr c = (count c n t).ctr c ∧ (count c n s).draws = (count c n t).draws := by
  unfold count
  rw [h, hd]
  split
  · simp [hd]
  · exact ⟨(setCtr_ctr_same s c _).trans (setCtr_ctr_same t c _).symm, rfl⟩

/-- Counting in a component's counter keeps two states that agree in the component in agreement. -/
theorem count_sameIn (k : Component) {c : Counter} (n : Nat) {s t : State} (hc : c ∈ countersIn k) (h : SameIn k s t)
    (hs : SameShared s t) : SameIn k (count c n s) (count c n t) ∧ SameShared (count c n s) (count c n t) := by
  obtain ⟨he, hcs⟩ := h
  obtain ⟨h1, h2, h3, h4⟩ := hs
  have hb := count_ctr_congr c n (hcs c hc) h4
  refine ⟨⟨by cases k <;> simpa [SameElements] using he, fun d hd => ?_⟩, by simpa using h1, by simpa using h2,
    by simpa using h3, hb.2⟩
  by_cases e : d = c
  · exact e ▸ hb.1
  · rw [count_ctr_other _ _ e, count_ctr_other _ _ e]
    exact hcs d hd

theorem commandsOf_cons (k : Component) (i : Instr) (l : List Instr) :
    commandsOf k (i :: l) = if componentOf i = some k then i :: commandsOf k l else commandsOf k l := by
  simp [commandsOf, List.filter_cons]

/-- Every counter belongs to exactly one component (10_state.md R31). -/
theorem counter_in_one_component (c : Counter) : ∃ k, c ∈ countersIn k ∧ ∀ j, c ∈ countersIn j → j = k := by
  cases c <;> first
    | exact ⟨.hazardTracker, by decide, fun j => by cases j <;> decide⟩
    | exact ⟨.dataCache, by decide, fun j => by cases j <;> decide⟩
    | exact ⟨.instructionCache, by decide, fun j => by cases j <;> decide⟩
    | exact ⟨.branchPredictors, by decide, fun j => by cases j <;> decide⟩

end Sys2Proof.Machine
end

