-- ==== Sys2Proof/Laws/Encoding.lean ====
section
/-! SUPPORT. The fields of a command word and the operand encodings, each with its round trip (30_encoding.md R80, R83,
R86 to R88). -/

namespace Sys2Proof

/-! ## The three fields of a word -/

theorem getLsbD_cmdWord (op : BitVec 4) (a b : BitVec 32) (i : Nat) :
    (cmdWord op a b).getLsbD i =
      if i < 32 then b.getLsbD i else if i < 64 then a.getLsbD (i - 32) else op.getLsbD (i - 64) := by
  show BitVec.getLsbD (w := 4 + 32 + 32) (op ++ a ++ b) i = _
  rw [BitVec.getLsbD_append, BitVec.getLsbD_append]
  have h : i - 32 < 32 ↔ i < 64 := by omega
  simp only [h, Nat.sub_sub]

@[simp] theorem opField_cmdWord (op : BitVec 4) (a b : BitVec 32) : opField (cmdWord op a b) = op := by
  refine BitVec.eq_of_getLsbD_eq fun i hi => ?_
  have h1 : ¬ 64 + i < 32 := by omega
  have h2 : ¬ 64 + i < 64 := by omega
  simp [opField, getLsbD_cmdWord, hi, h1, h2]

@[simp] theorem fieldA_cmdWord (op : BitVec 4) (a b : BitVec 32) : fieldA (cmdWord op a b) = a := by
  refine BitVec.eq_of_getLsbD_eq fun i hi => ?_
  have h1 : ¬ 32 + i < 32 := by omega
  have h2 : 32 + i < 64 := by omega
  simp [fieldA, getLsbD_cmdWord, hi, h1, h2]

@[simp] theorem fieldB_cmdWord (op : BitVec 4) (a b : BitVec 32) : fieldB (cmdWord op a b) = b := by
  refine BitVec.eq_of_getLsbD_eq fun i hi => ?_
  simp [fieldB, getLsbD_cmdWord, hi]

/-- A word is its three fields. -/
theorem cmdWord_fields (w : CmdWord) : cmdWord (opField w) (fieldA w) (fieldB w) = w := by
  refine BitVec.eq_of_getLsbD_eq fun i hi => ?_
  rw [getLsbD_cmdWord]
  unfold opField fieldA fieldB
  simp only [BitVec.getLsbD_extractLsb']
  split
  · next h => simp [h]
  · next h =>
    split
    · next h2 => simp [show i - 32 < 32 by omega, show 32 + (i - 32) = i by omega]
    · next h2 => simp [show i - 64 < 4 by omega, show 64 + (i - 64) = i by omega]

/-! ## Slots, kinds and selectors -/

@[simp] theorem decodeSlot_encodeSlot (x : RegSlot) : decodeSlot (encodeSlot x) = some x := by
  cases x with
  | none => rfl
  | reg i => revert i; decide

theorem encodeSlot_of_decodeSlot {v : BitVec 6} {x : RegSlot} (h : decodeSlot v = some x) : encodeSlot x = v := by
  revert v; cases x with
  | none => decide
  | reg i => revert i; decide

theorem decodeKind_encodeKind {k : Kind} (h : k.recordable = true) : decodeKind (encodeKind k) = some k := by
  cases k <;> first | rfl | exact absurd h (by decide)

theorem encodeKind_of_decodeKind {v : BitVec 2} {k : Kind} (h : decodeKind v = some k) :
    encodeKind k = v ∧ k.recordable = true := by
  revert v k; decide

@[simp] theorem decodeSel_code (c : Counter) : decodeSel c.code = some c := by
  cases c <;> rfl

theorem code_of_decodeSel {v : BitVec 4} {c : Counter} (h : decodeSel v = some c) : c.code = v := by
  revert v c; decide

theorem mem_all (c : Counter) : c ∈ Counter.all := by
  cases c <;> decide

/-! ## The field `A` of RECORD and of RDCTR -/

/-- The field `A` that holds a kind and three slots (30_encoding.md R83, format R). -/
def recordField (k : BitVec 2) (d a b : BitVec 6) : BitVec 32 := 0#12 ++ k ++ d ++ a ++ b

theorem getLsbD_recordField (k : BitVec 2) (d a b : BitVec 6) (i : Nat) :
    (recordField k d a b).getLsbD i =
      if i < 6 then b.getLsbD i else if i < 12 then a.getLsbD (i - 6) else if i < 18 then d.getLsbD (i - 12)
      else if i < 20 then k.getLsbD (i - 18) else false := by
  show BitVec.getLsbD (w := 12 + 2 + 6 + 6 + 6) (0#12 ++ k ++ d ++ a ++ b) i = _
  rw [BitVec.getLsbD_append, BitVec.getLsbD_append, BitVec.getLsbD_append, BitVec.getLsbD_append]
  have h1 : i - 6 < 6 ↔ i < 12 := by omega
  have h2 : i - 12 < 6 ↔ i < 18 := by omega
  have h3 : i - 18 < 2 ↔ i < 20 := by omega
  simp only [Nat.sub_sub, Nat.reduceAdd, h1, h2, h3, BitVec.getLsbD_zero]

@[simp] theorem recordField_zero (k : BitVec 2) (d a b : BitVec 6) :
    (recordField k d a b).extractLsb' 20 12 = 0#12 := by
  refine BitVec.eq_of_getLsbD_eq fun i hi => ?_
  have h6 : ¬ 20 + i < 6 := by omega
  have h12 : ¬ 20 + i < 12 := by omega
  have h18 : ¬ 20 + i < 18 := by omega
  have h20 : ¬ 20 + i < 20 := by omega
  simp [getLsbD_recordField, hi, h6, h12, h18, h20]

@[simp] theorem recordField_kind (k : BitVec 2) (d a b : BitVec 6) :
    (recordField k d a b).extractLsb' 18 2 = k := by
  refine BitVec.eq_of_getLsbD_eq fun i hi => ?_
  have h6 : ¬ 18 + i < 6 := by omega
  have h12 : ¬ 18 + i < 12 := by omega
  have h18 : ¬ 18 + i < 18 := by omega
  have h20 : 18 + i < 20 := by omega
  simp [getLsbD_recordField, hi, h6, h12, h18, h20]

@[simp] theorem recordField_dest (k : BitVec 2) (d a b : BitVec 6) :
    (recordField k d a b).extractLsb' 12 6 = d := by
  refine BitVec.eq_of_getLsbD_eq fun i hi => ?_
  have h6 : ¬ 12 + i < 6 := by omega
  have h12 : ¬ 12 + i < 12 := by omega
  have h18 : 12 + i < 18 := by omega
  simp [getLsbD_recordField, hi, h6, h12, h18]

@[simp] theorem recordField_src1 (k : BitVec 2) (d a b : BitVec 6) :
    (recordField k d a b).extractLsb' 6 6 = a := by
  refine BitVec.eq_of_getLsbD_eq fun i hi => ?_
  have h6 : ¬ 6 + i < 6 := by omega
  have h12 : 6 + i < 12 := by omega
  simp [getLsbD_recordField, hi, h6, h12]

@[simp] theorem recordField_src2 (k : BitVec 2) (d a b : BitVec 6) :
    (recordField k d a b).extractLsb' 0 6 = b := by
  refine BitVec.eq_of_getLsbD_eq fun i hi => ?_
  simp [getLsbD_recordField, hi]

/-- A field `A` whose upper bits are zero is its four parts. -/
theorem recordField_parts {a : BitVec 32} (h : a.extractLsb' 20 12 = 0#12) :
    recordField (a.extractLsb' 18 2) (a.extractLsb' 12 6) (a.extractLsb' 6 6) (a.extractLsb' 0 6) = a := by
  refine BitVec.eq_of_getLsbD_eq fun i hi => ?_
  rw [getLsbD_recordField]
  simp only [BitVec.getLsbD_extractLsb']
  by_cases h6 : i < 6
  · simp [h6]
  by_cases h12 : i < 12
  · simp [h6, h12, show i - 6 < 6 by omega, show 6 + (i - 6) = i by omega]
  by_cases h18 : i < 18
  · simp [h6, h12, h18, show i - 12 < 6 by omega, show 12 + (i - 12) = i by omega]
  by_cases h20 : i < 20
  · simp [h6, h12, h18, h20, show i - 18 < 2 by omega, show 18 + (i - 18) = i by omega]
  · have hz : (a.extractLsb' 20 12).getLsbD (i - 20) = false := by rw [h]; simp
    rw [BitVec.getLsbD_extractLsb'] at hz
    simp only [show i - 20 < 12 by omega, show 20 + (i - 20) = i by omega, decide_true, Bool.true_and] at hz
    simp [h6, h12, h18, h20, hz]

/-- The field `A` that holds a selector (30_encoding.md R83, format C). -/
def selectorField (v : BitVec 4) : BitVec 32 := 0#28 ++ v

@[simp] theorem selectorField_zero (v : BitVec 4) : (selectorField v).extractLsb' 4 28 = 0#28 := by
  revert v; decide

@[simp] theorem selectorField_sel (v : BitVec 4) : (selectorField v).extractLsb' 0 4 = v := by
  revert v; decide

theorem getLsbD_selectorField (v : BitVec 4) (i : Nat) :
    (selectorField v).getLsbD i = if i < 4 then v.getLsbD i else false := by
  show BitVec.getLsbD (w := 28 + 4) (0#28 ++ v) i = _
  rw [BitVec.getLsbD_append]
  simp only [BitVec.getLsbD_zero]

theorem selectorField_parts {a : BitVec 32} (h : a.extractLsb' 4 28 = 0#28) :
    selectorField (a.extractLsb' 0 4) = a := by
  refine BitVec.eq_of_getLsbD_eq fun i hi => ?_
  rw [getLsbD_selectorField]
  by_cases h4 : i < 4
  · simp [h4]
  · have hz : (a.extractLsb' 4 28).getLsbD (i - 4) = false := by rw [h]; simp
    rw [BitVec.getLsbD_extractLsb'] at hz
    simp only [show i - 4 < 28 by omega, show 4 + (i - 4) = i by omega, decide_true, Bool.true_and] at hz
    simp [h4, hz]

/-! ## The encoder by fields -/

@[simp] theorem opField_encode (i : Instr) : opField (encode i) = i.opcode := opField_cmdWord _ _ _
@[simp] theorem fieldA_encode (i : Instr) : fieldA (encode i) = i.operandA := fieldA_cmdWord _ _ _
@[simp] theorem fieldB_encode (i : Instr) : fieldB (encode i) = i.operandB := fieldB_cmdWord _ _ _

theorem operandA_record (d a b : RegSlot) (k : Kind) :
    (Instr.record d a b k).operandA = recordField (encodeKind k) (encodeSlot d) (encodeSlot a) (encodeSlot b) := rfl

theorem operandA_rdctr (c : Counter) : (Instr.rdctr c).operandA = selectorField c.code := rfl

end Sys2Proof
end

