-- ==== Sys2Proof/Laws/Hazard.lean ====
section
/-! SUPPORT. What the HazardTracker operations of 40_hazard.md can do. -/

namespace Sys2Proof.Machine

/-- RECORD accepted (40_hazard.md R110). -/
theorem record_unarmed (d a b : RegSlot) (k : Kind) {s : State} (h : s.status.armed = false) :
    record d a b k s =
      setArmed true { s with prev := demoted s, cur := { dest := d, src1 := a, src2 := b, kind := k } } := by
  simp [record, h]

/-- RECORD refused (40_hazard.md R110). -/
theorem record_armed (d a b : RegSlot) (k : Kind) {s : State} (h : s.status.armed = true) :
    record d a b k s = raise .recordWithoutCheck s := by simp [record, h]

/-- CHECK accepted (40_hazard.md R111): the count is by one or by nothing. -/
theorem check_armed {s : State} (h : s.status.armed = true) :
    check s = setArmed false (count .haz (if loadUse s.prev s.cur then 1 else 0) s) := by
  unfold check
  split
  · next h' => simp [h] at h'
  · split <;> simp [*]

/-- CHECK refused (40_hazard.md R111). -/
theorem check_unarmed {s : State} (h : s.status.armed = false) : check s = raise .checkWithoutRecord s := by
  simp [check, h]

/-- When CHECK counts (40_hazard.md R111). -/
theorem loadUse_iff (p c : Context) :
    loadUse p c = true ↔ p.kind = .memoryRead ∧ (p.dest = c.src1 ∨ p.dest = c.src2) := by
  simp [loadUse]

/-! ## What the operations leave of each field -/

@[simp] theorem record_cfg (d a b : RegSlot) (k : Kind) (s : State) : (record d a b k s).cfg = s.cfg := by
  unfold record; split <;> rfl
@[simp] theorem record_dline (d a b : RegSlot) (k : Kind) (s : State) : (record d a b k s).dline = s.dline := by
  unfold record; split <;> rfl
@[simp] theorem record_iline (d a b : RegSlot) (k : Kind) (s : State) : (record d a b k s).iline = s.iline := by
  unfold record; split <;> rfl
@[simp] theorem record_atTgt (d a b : RegSlot) (k : Kind) (s : State) : (record d a b k s).atTgt = s.atTgt := by
  unfold record; split <;> rfl
@[simp] theorem record_b1 (d a b : RegSlot) (k : Kind) (s : State) : (record d a b k s).b1 = s.b1 := by
  unfold record; split <;> rfl
@[simp] theorem record_b2 (d a b : RegSlot) (k : Kind) (s : State) : (record d a b k s).b2 = s.b2 := by
  unfold record; split <;> rfl
@[simp] theorem record_ctrs (d a b : RegSlot) (k : Kind) (s : State) : (record d a b k s).ctrs = s.ctrs := by
  unfold record; split <;> rfl
@[simp] theorem record_rsp (d a b : RegSlot) (k : Kind) (s : State) : (record d a b k s).rsp = s.rsp := by
  unfold record; split <;> rfl
@[simp] theorem record_draws (d a b : RegSlot) (k : Kind) (s : State) : (record d a b k s).draws = s.draws := by
  unfold record; split <;> rfl
@[simp] theorem record_inputs (d a b : RegSlot) (k : Kind) (s : State) : (record d a b k s).inputs = s.inputs := by
  unfold record; split <;> rfl

@[simp] theorem check_cfg (s : State) : (check s).cfg = s.cfg := by
  unfold check; split <;> [rfl; split <;> simp]
@[simp] theorem check_cur (s : State) : (check s).cur = s.cur := by
  unfold check; split <;> [rfl; split <;> simp]
@[simp] theorem check_prev (s : State) : (check s).prev = s.prev := by
  unfold check; split <;> [rfl; split <;> simp]
@[simp] theorem check_dline (s : State) : (check s).dline = s.dline := by
  unfold check; split <;> [rfl; split <;> simp]
@[simp] theorem check_iline (s : State) : (check s).iline = s.iline := by
  unfold check; split <;> [rfl; split <;> simp]
@[simp] theorem check_atTgt (s : State) : (check s).atTgt = s.atTgt := by
  unfold check; split <;> [rfl; split <;> simp]
@[simp] theorem check_b1 (s : State) : (check s).b1 = s.b1 := by
  unfold check; split <;> [rfl; split <;> simp]
@[simp] theorem check_b2 (s : State) : (check s).b2 = s.b2 := by
  unfold check; split <;> [rfl; split <;> simp]
@[simp] theorem check_rsp (s : State) : (check s).rsp = s.rsp := by
  unfold check; split <;> [rfl; split <;> simp]
@[simp] theorem check_inputs (s : State) : (check s).inputs = s.inputs := by
  unfold check; split <;> [rfl; split <;> simp]

end Sys2Proof.Machine
end

