-- ==== Sys2Proof/Laws/PerInstr.lean ====
section
/-! SUPPORT. Statements about every command, made per constructor of Instr. -/

namespace Sys2Proof.Laws

open Sys2Proof

/-! ## TableRow: a command's word carries the fixed bits of its row of spec/opcode_table.json -/

/-- The `mask` of a command's row. -/
def TableRow.mask : Instr → CmdWord
  | .reset => 0xFFFFFFFFFFFFFFFFF#68
  | .record _ _ _ _ => 0xFFFF00000FFFFFFFF#68
  | .check => 0xFFFFFFFFFFFFFFFFF#68
  | .dread _ => 0xF00000000FFFFFFFF#68
  | .dwrite _ => 0xF00000000FFFFFFFF#68
  | .ifetch _ => 0xF00000000FFFFFFFF#68
  | .btaken _ _ => 0xF0000000000000000#68
  | .bntaken _ _ => 0xF0000000000000000#68
  | .rdctr _ => 0xFFFFFFFF0FFFFFFFF#68
  | .rdstat => 0xFFFFFFFFFFFFFFFFF#68

/-- The `match` of a command's row. -/
def TableRow.pattern : Instr → CmdWord
  | .reset => 0x10000000000000000#68
  | .record _ _ _ _ => 0x20000000000000000#68
  | .check => 0x30000000000000000#68
  | .dread _ => 0x40000000000000000#68
  | .dwrite _ => 0x50000000000000000#68
  | .ifetch _ => 0x60000000000000000#68
  | .btaken _ _ => 0x70000000000000000#68
  | .bntaken _ _ => 0x80000000000000000#68
  | .rdctr _ => 0x90000000000000000#68
  | .rdstat => 0xA0000000000000000#68

/-- The word of a command agrees with its row in every bit the row fixes. -/
def TableRow.Statement (i : Instr) : Prop := encode i &&& TableRow.mask i = TableRow.pattern i

/-- Masking a word masks its fields. -/
theorem cmdWord_and (op op' : BitVec 4) (a a' b b' : BitVec 32) :
    cmdWord op a b &&& cmdWord op' a' b' = cmdWord (op &&& op') (a &&& a') (b &&& b') := by
  refine BitVec.eq_of_getLsbD_eq fun i _ => ?_
  rw [BitVec.getLsbD_and, getLsbD_cmdWord, getLsbD_cmdWord, getLsbD_cmdWord]
  split
  · rw [BitVec.getLsbD_and]
  · split <;> rw [BitVec.getLsbD_and]

/-- A command agrees with a row if its fields do. -/
theorem TableRow.of_fields {i : Instr} {op : BitVec 4} {a b : BitVec 32}
    (hm : TableRow.mask i = cmdWord 0xF#4 a b) (hp : TableRow.pattern i = cmdWord op 0#32 0#32)
    (hop : i.opcode = op) (ha : i.operandA &&& a = 0#32) (hb : i.operandB &&& b = 0#32) :
    TableRow.Statement i := by
  have h4 : ∀ x : BitVec 4, x &&& 0xF#4 = x := by decide
  unfold TableRow.Statement encode
  rw [hm, hp, cmdWord_and, ha, hb, hop, h4]

theorem TableRow.reset : TableRow.Statement .reset := by unfold TableRow.Statement; decide

theorem TableRow.record (d a b : RegSlot) (k : Kind) : TableRow.Statement (.record d a b k) := by
  refine TableRow.of_fields (op := 0x2#4) (a := 0xFFF00000#32) (b := 0xFFFFFFFF#32)
    (by simp only [TableRow.mask]; decide) (by simp only [TableRow.pattern]; decide) rfl
    ?_ (by simp [Instr.operandB])
  rw [operandA_record]
  refine BitVec.eq_of_getLsbD_eq fun i _ => ?_
  rw [BitVec.getLsbD_and, getLsbD_recordField]
  by_cases h : i < 20
  · have hz : (0xFFF00000#32).getLsbD i = false := by revert i; decide
    simp [hz]
  · simp [h, show ¬ i < 6 by omega, show ¬ i < 12 by omega, show ¬ i < 18 by omega]

theorem TableRow.check : TableRow.Statement .check := by unfold TableRow.Statement; decide

theorem TableRow.dread (a : Addr) : TableRow.Statement (.dread a) :=
  TableRow.of_fields (op := 0x4#4) (a := 0#32) (b := 0xFFFFFFFF#32)
    (by simp only [TableRow.mask]; decide) (by simp only [TableRow.pattern]; decide) rfl
    (by simp) (by simp [Instr.operandB])

theorem TableRow.dwrite (a : Addr) : TableRow.Statement (.dwrite a) :=
  TableRow.of_fields (op := 0x5#4) (a := 0#32) (b := 0xFFFFFFFF#32)
    (by simp only [TableRow.mask]; decide) (by simp only [TableRow.pattern]; decide) rfl
    (by simp) (by simp [Instr.operandB])

theorem TableRow.ifetch (a : Addr) : TableRow.Statement (.ifetch a) :=
  TableRow.of_fields (op := 0x6#4) (a := 0#32) (b := 0xFFFFFFFF#32)
    (by simp only [TableRow.mask]; decide) (by simp only [TableRow.pattern]; decide) rfl
    (by simp) (by simp [Instr.operandB])

theorem TableRow.btaken (pc tgt : Addr) : TableRow.Statement (.btaken pc tgt) :=
  TableRow.of_fields (op := 0x7#4) (a := 0#32) (b := 0#32)
    (by simp only [TableRow.mask]; decide) (by simp only [TableRow.pattern]; decide) rfl
    (by simp) (by simp)

theorem TableRow.bntaken (pc tgt : Addr) : TableRow.Statement (.bntaken pc tgt) :=
  TableRow.of_fields (op := 0x8#4) (a := 0#32) (b := 0#32)
    (by simp only [TableRow.mask]; decide) (by simp only [TableRow.pattern]; decide) rfl
    (by simp) (by simp)

theorem TableRow.rdctr (c : Counter) : TableRow.Statement (.rdctr c) :=
  TableRow.of_fields (op := 0x9#4) (a := 0xFFFFFFF0#32) (b := 0xFFFFFFFF#32)
    (by simp only [TableRow.mask]; decide) (by simp only [TableRow.pattern]; decide) rfl
   
    (by cases c <;> decide) (by simp [Instr.operandB])

theorem TableRow.rdstat : TableRow.Statement .rdstat := by unfold TableRow.Statement; decide

end Sys2Proof.Laws
end

