-- ==== Sys2Proof/Laws/Step.lean ====
section
/-! SUPPORT. What a command and a step can do: each meaning as its equation, and the inversion of step. -/

namespace Sys2Proof.Machine

/-! ## The meanings -/

@[simp] theorem exec_reset (s : State) : exec .reset s = .next (initialise (quiet s)) := rfl

theorem exec_record (d a b : RegSlot) (k : Kind) (s : State) :
    exec (.record d a b k) s =
      .next (if k.recordable then whenRunning (record d a b k) s else raise .illegalOperand (quiet s)) := by
  show execRecord d a b k s = _
  unfold execRecord
  split <;> rfl

@[simp] theorem exec_check (s : State) : exec .check s = .next (whenRunning check s) := rfl

@[simp] theorem exec_dread (a : Addr) (s : State) :
    exec (.dread a) s = .next (whenRunning (dataAccess readLine a) s) := rfl

@[simp] theorem exec_dwrite (a : Addr) (s : State) :
    exec (.dwrite a) s = .next (whenRunning (dataAccess writeLine a) s) := rfl

@[simp] theorem exec_ifetch (a : Addr) (s : State) :
    exec (.ifetch a) s = .next (whenRunning (fun t => fetchLine a (count .iacc 1 t)) s) := rfl

@[simp] theorem exec_btaken (pc tgt : Addr) (s : State) :
    exec (.btaken pc tgt) s = .next (whenRunning (branchTaken (predictorIndex s.cfg.k pc) tgt) s) := rfl

@[simp] theorem exec_bntaken (pc tgt : Addr) (s : State) :
    exec (.bntaken pc tgt) s = .next (whenRunning (branchNotTaken (predictorIndex s.cfg.k pc) (fallThrough pc)) s) :=
  rfl

theorem exec_rdctr (c : Counter) (s : State) :
    exec (.rdctr c) s =
      .next (if s.status.ready = false then readCounterNotReady s else respond (s.ctr c) s) := by
  show execRdctr c s = _
  unfold execRdctr
  split <;> rfl

@[simp] theorem exec_rdstat (s : State) : exec .rdstat s = .next (respond (Status.response s.status) s) := rfl

/-! ## A property every meaning keeps -/

/-- What the shared operations have to keep for every meaning to keep it: the case split over the commands, once. -/
structure Kept (P : State → Prop) : Prop where
  quiet : ∀ s, P s → P (quiet s)
  respond : ∀ v s, P s → P (respond v s)
  draw : ∀ s, P s → P { s with draws := s.draws + 1 }
  raiseOpcode : ∀ s, P s → P (raise .illegalOpcode s)
  raiseOperand : ∀ s, P s → P (raise .illegalOperand s)
  raiseNotReady : ∀ s, s.status.ready = false → P s → P (raise .notReady s)
  record : ∀ d a b k s, k.recordable = true → s.status.ready = true → s.status.fault = .none → P s →
    P (record d a b k s)
  check : ∀ s, s.status.ready = true → s.status.fault = .none → P s → P (check s)
  count : ∀ c n s, P s → P (count c n s)
  readLine : ∀ a s, P s → P (readLine a s)
  writeLine : ∀ a s, P s → P (writeLine a s)
  fetchLine : ∀ a s, P s → P (fetchLine a s)
  branchTaken : ∀ pc tgt s, P s → P (branchTaken (predictorIndex s.cfg.k pc) tgt s)
  branchNotTaken : ∀ pc nt s, P s → P (branchNotTaken (predictorIndex s.cfg.k pc) nt s)
  initialise : ∀ s, P s → P (initialise s)

/-- Every command keeps what the shared operations keep. -/
theorem Kept.exec {P : State → Prop} (h : Kept P) (i : Instr) {s t : State} (hs : P s)
    (e : exec i s = .next t) : P t := by
  have hq := h.quiet s hs
  have run : ∀ act : State → State,
      (s.status.ready = true → s.status.fault = .none → P (act (Machine.quiet s))) → P (whenRunning act s) :=
    fun act ha => whenRunning_keeps (fun hr => h.raiseNotReady _ hr hq) hq ha
  cases i with
  | reset => rw [exec_reset] at e; injection e with e; subst e; exact h.initialise _ hq
  | record d a b k =>
    rw [exec_record] at e
    injection e with e
    subst e
    split
    · next hk => exact run _ fun hr hf => h.record d a b k _ hk hr hf hq
    · exact h.raiseOperand _ hq
  | check =>
    rw [exec_check] at e
    injection e with e
    subst e
    exact run _ fun hr hf => h.check _ hr hf hq
  | dread a =>
    rw [exec_dread] at e
    injection e with e
    subst e
    exact run _ fun _ _ => dataAccess_keeps (line := Machine.readLine) h.count h.readLine hq
  | dwrite a =>
    rw [exec_dwrite] at e
    injection e with e
    subst e
    exact run _ fun _ _ => dataAccess_keeps (line := Machine.writeLine) h.count h.writeLine hq
  | ifetch a =>
    rw [exec_ifetch] at e
    injection e with e
    subst e
    exact run (fun u => Machine.fetchLine a (Machine.count .iacc 1 u)) fun _ _ => h.fetchLine a _ (h.count _ _ _ hq)
  | btaken pc tgt =>
    rw [exec_btaken] at e
    injection e with e
    subst e
    exact run _ fun _ _ => h.branchTaken pc tgt (Machine.quiet s) hq
  | bntaken pc tgt =>
    rw [exec_bntaken] at e
    injection e with e
    subst e
    exact run _ fun _ _ => h.branchNotTaken pc (fallThrough pc) (Machine.quiet s) hq
  | rdctr c =>
    rw [exec_rdctr] at e
    injection e with e
    subst e
    split
    · next hr => exact h.raiseNotReady _ hr (h.draw _ (h.respond _ _ hs))
    · exact h.respond _ _ hs
  | rdstat => rw [exec_rdstat] at e; injection e with e; subst e; exact h.respond _ _ hs

/-! ## Steps -/

theorem step_idle {s : State} (h : s.inputs = []) : step s = .next (quiet (takeInput s)) := by
  simp [step, nextInput, acceptInput, h]

theorem step_rst {s : State} {l : List Input} (h : s.inputs = .rst :: l) :
    step s = .next (hardReset { s with inputs := l }) := by
  simp [step, nextInput, acceptInput, takeInput, h]

theorem step_cmd {s : State} {w : CmdWord} {l : List Input} (h : s.inputs = .cmd w :: l) :
    step s = acceptWord w { s with inputs := l } := by
  simp [step, nextInput, acceptInput, takeInput, h]

/-- The meanings never stop the machine (60_exceptions.md R170, R172). -/
theorem exec_eq_next (i : Instr) (s : State) : ∃ t, exec i s = .next t := by
  cases i with
  | record d a b k => exact ⟨_, exec_record d a b k s⟩
  | rdctr c => exact ⟨_, exec_rdctr c s⟩
  | _ => exact ⟨_, rfl⟩

/-- All that a step can do: wait, reset, refuse a word with a decoding fault, or run a command. -/
theorem step_cases {s t : State} (h : step s = .next t) :
    (s.inputs = [] ∧ t = quiet (takeInput s)) ∨
    (∃ l, s.inputs = .rst :: l ∧ t = hardReset { s with inputs := l }) ∨
    (∃ w l, s.inputs = .cmd w :: l ∧ decode w = .illegalOpcode ∧
      t = raise .illegalOpcode (quiet { s with inputs := l })) ∨
    (∃ w l, s.inputs = .cmd w :: l ∧ decode w = .illegalOperand ∧
      t = raise .illegalOperand (quiet { s with inputs := l })) ∨
    (∃ w l i, s.inputs = .cmd w :: l ∧ decode w = .cmd i ∧ exec i { s with inputs := l } = .next t) := by
  rcases hi : s.inputs with _ | ⟨e, l⟩
  · rw [step_idle hi] at h
    injection h with h
    exact .inl ⟨rfl, h.symm⟩
  · cases e with
    | rst =>
      rw [step_rst hi] at h
      injection h with h
      exact .inr (.inl ⟨l, rfl, h.symm⟩)
    | cmd w =>
      rw [step_cmd hi] at h
      unfold acceptWord at h
      split at h
      · next hd => injection h with h; exact .inr (.inr (.inl ⟨w, l, rfl, hd, h.symm⟩))
      · next hd => injection h with h; exact .inr (.inr (.inr (.inl ⟨w, l, rfl, hd, h.symm⟩)))
      · next i hd => exact .inr (.inr (.inr (.inr ⟨w, l, i, rfl, hd, h⟩)))

/-- A step keeps what the shared operations keep, if taking an input and the hardware reset keep it too. -/
theorem Kept.step {P : State → Prop} (h : Kept P) (htake : ∀ s l, P s → P { s with inputs := l })
    (hrst : ∀ s, P s → P (hardReset s)) {s t : State} (hs : P s) (e : step s = .next t) : P t := by
  rcases step_cases e with ⟨_, rfl⟩ | ⟨l, _, rfl⟩ | ⟨w, l, _, _, rfl⟩ | ⟨w, l, _, _, rfl⟩ | ⟨w, l, i, _, _, e⟩
  · exact h.quiet _ (htake _ _ hs)
  · exact hrst _ (htake _ _ hs)
  · exact h.raiseOpcode _ (h.quiet _ (htake _ _ hs))
  · exact h.raiseOperand _ (h.quiet _ (htake _ _ hs))
  · exact h.exec i (htake _ _ hs) e

end Sys2Proof.Machine
end

