-- ==== Sys2Proof/Machine/Text.lean ====
section
/-! DEFINITION. The text form of a command stream (30_encoding.md R93): reading a line, with the pseudo-commands of R94,
and writing a command. DESIGN CHOICE: where 92_eei_decisions.md D26 words it otherwise, R93 and R94 are followed (log
20). -/

namespace Sys2Proof.Machine

/-- The line without its comment: `;` starts one (R93). -/
def withoutComment (l : List Char) : List Char := l.takeWhile fun c => c != ';'

/-- Adds a character to the tokens of what follows it: blanks separate tokens, a comma is a token of its own. `open`
says that the first token is still growing. -/
def addChar (c : Char) (acc : Bool × List (List Char)) : Bool × List (List Char) :=
  if c = ' ' ∨ c = '\t' ∨ c = '\r' then (false, acc.2)
  else if c = ',' then (false, [','] :: acc.2)
  else
    match acc with
    | (true, t :: ts) => (true, (c :: t) :: ts)
    | (_, ts) => (true, [c] :: ts)

/-- The tokens of a line (R93). -/
def tokens (l : List Char) : List (List Char) := ((withoutComment l).foldr addChar (false, [])).2

/-- The value of a digit in a base of at most 16. -/
def digitValue (base : Nat) (c : Char) : Option Nat :=
  let v :=
    if '0' ≤ c ∧ c ≤ '9' then c.toNat - '0'.toNat
    else if 'a' ≤ c ∧ c ≤ 'f' then c.toNat - 'a'.toNat + 10
    else if 'A' ≤ c ∧ c ≤ 'F' then c.toNat - 'A'.toNat + 10
    else base
  if v < base then some v else none

/-- The number a list of digits writes, most significant first, after `acc`. -/
def digits (base : Nat) : List Char → Nat → Option Nat
  | [], acc => some acc
  | c :: cs, acc => (digitValue base c).bind fun v => digits base cs (acc * base + v)

/-- A number: decimal, or hexadecimal after `0x` (R93; digits of either case and leading zeros, log 20). -/
def parseNumber (l : List Char) : Option Nat :=
  match l with
  | [] => none
  | ['0', 'x'] => none
  | '0' :: 'x' :: cs => digits 16 cs 0
  | cs => digits 10 cs 0

/-- An address operand: a number of 32 bits. -/
def parseAddr (l : List Char) : Option Addr :=
  (parseNumber l).bind fun n => if n < 2 ^ 32 then some (BitVec.ofNat 32 n) else none

/-- A register slot: `-`, `r` and an index, or `$` and an index (R93). -/
def parseSlot (l : List Char) : Option RegSlot :=
  match l with
  | ['-'] => some .none
  | 'r' :: c :: cs => (digits 10 (c :: cs) 0).bind fun n => if n < 32 then some (.reg (BitVec.ofNat 5 n)) else none
  | '$' :: c :: cs => (digits 10 (c :: cs) 0).bind fun n => if n < 32 then some (.reg (BitVec.ofNat 5 n)) else none
  | _ => none

/-- A kind: `mr` or `nm` (R93; log 20). -/
def parseKind (l : List Char) : Option Kind :=
  if l = "mr".toList then some .memoryRead else if l = "nm".toList then some .normal else none

/-- A counter's name in lower case (R93; log 20; the names of 10_state.md R31). -/
def counterName : Counter → String
  | .haz => "haz"
  | .dmiss => "dmiss"
  | .imiss => "imiss"
  | .unal => "unal"
  | .dacc => "dacc"
  | .iacc => "iacc"
  | .atHit => "at_hit"
  | .atMiss => "at_miss"
  | .ntHit => "nt_hit"
  | .ntMiss => "nt_miss"
  | .b1Hit => "b1_hit"
  | .b1Miss => "b1_miss"
  | .b2Hit => "b2_hit"
  | .b2Miss => "b2_miss"

/-- The counter a name stands for. -/
def parseCounter (l : List Char) : Option Counter := Counter.all.find? fun c => (counterName c).toList == l

/-- The four operands of `record` and `retire`. -/
def parseRecord (mk : RegSlot → RegSlot → RegSlot → Kind → List Instr) (d a b k : List Char) : Option (List Instr) :=
  match parseSlot d, parseSlot a, parseSlot b, parseKind k with
  | some dest, some src1, some src2, some kind => some (mk dest src1 src2 kind)
  | _, _, _, _ => none

/-- The commands of one line of text: none for a blank line, several for a pseudo-command (R93, R94). `bntaken` takes
both its operands (log 20). -/
def assembleTokens (ts : List (List Char)) : Option (List Instr) :=
  match ts with
  | [] => some []
  | [m] =>
    if m = "reset".toList then some [.reset]
    else if m = "check".toList then some [.check]
    else if m = "rdstat".toList then some [.rdstat]
    else if m = "report".toList then some report
    else none
  | [m, a] =>
    if m = "dread".toList then (parseAddr a).map fun x => [.dread x]
    else if m = "dwrite".toList then (parseAddr a).map fun x => [.dwrite x]
    else if m = "ifetch".toList then (parseAddr a).map fun x => [.ifetch x]
    else if m = "rdctr".toList then (parseCounter a).map fun c => [.rdctr c]
    else none
  | [m, a, [','], b] =>
    if m = "btaken".toList then (parseAddr a).bind fun x => (parseAddr b).map fun y => [.btaken x y]
    else if m = "bntaken".toList then (parseAddr a).bind fun x => (parseAddr b).map fun y => [.bntaken x y]
    else none
  | [m, d, [','], a, [','], b, [','], k] =>
    if m = "record".toList then parseRecord (fun w x y z => [.record w x y z]) d a b k
    else if m = "retire".toList then parseRecord retire d a b k
    else none
  | _ => none

/-- The commands of one line (R93). -/
def assembleLine (line : String) : Option (List Instr) := assembleTokens (tokens line.toList)

/-- The lines of a text. -/
def addToLines (c : Char) (ls : List (List Char)) : List (List Char) :=
  if c = '\n' then [] :: ls
  else
    match ls with
    | [] => [[c]]
    | l :: rest => (c :: l) :: rest

/-- The command stream of a text, one command a line (R93); none if a line is no command. -/
def assemble (text : String) : Option (List Instr) :=
  ((text.toList.foldr addToLines [[]]).mapM fun l => assembleTokens (tokens l)).map List.flatten

/-- A slot as text (R93). -/
def slotText : RegSlot → String
  | .none => "-"
  | .reg i => "r" ++ toString i.toNat

/-- A kind as text (R93). `Uninitialized` is no operand and has no text. -/
def kindText : Kind → Option String
  | .uninitialized => none
  | .memoryRead => some "mr"
  | .normal => some "nm"

/-- An address as text, in decimal (R93; log 20). -/
def addrText (a : Addr) : String := toString a.toNat

/-- A command as one line of text (R93). -/
def commandText : Instr → Option String
  | .reset => some "reset"
  | .record d a b k =>
    (kindText k).map fun t => "record " ++ slotText d ++ ", " ++ slotText a ++ ", " ++ slotText b ++ ", " ++ t
  | .check => some "check"
  | .dread a => some ("dread " ++ addrText a)
  | .dwrite a => some ("dwrite " ++ addrText a)
  | .ifetch a => some ("ifetch " ++ addrText a)
  | .btaken pc tgt => some ("btaken " ++ addrText pc ++ ", " ++ addrText tgt)
  | .bntaken pc tgt => some ("bntaken " ++ addrText pc ++ ", " ++ addrText tgt)
  | .rdctr c => some ("rdctr " ++ counterName c)
  | .rdstat => some "rdstat"

end Sys2Proof.Machine
end

