-- ==== Sys2Proof/Tests/Slice0.lean ====
section
/-! SUPPORT. Tests. Expected values come from spec/: the worked encodings of 30_encoding.md and the vectors of
95_test_vectors.md, named at each theorem. The theorems named test_hypotheses_… give, for each statement of
Certificates/Slice0/Obligations.lean that has hypotheses, a concrete state and operands that meet them together. -/

namespace Sys2Proof.Tests

open Sys2Proof Sys2Proof.Machine

/-! ## Helpers -/

/-- The state a command leaves. -/
def after (s : State) (i : Instr) : State :=
  match exec i s with
  | .next t => t
  | .fault _ => s
  | .refused _ => s

/-- The state one step leaves. -/
def stepped (s : State) : State :=
  match step s with
  | .next t => t
  | .fault _ => s
  | .refused _ => s

/-- The state right after RESET with a stream presented. -/
def facing (l : List Instr) : State := { State.reset with inputs := presented l }

/-- The not-ready status of 70_reset_and_hazards.md R190, on otherwise reset elements. -/
def notReadyState : State := { State.reset with status := statusPowerOn }

/-- A state with a fault latched and commands still to come. -/
def frozenState (l : List Input) : State :=
  { State.reset with status := { statusReset with fault := .checkWithoutRecord }, inputs := l }

/-- A state in which a RECORD waits for its CHECK. -/
def armedState (prev cur : Context) : State :=
  { State.reset with prev := prev, cur := cur, status := { statusReset with armed := true } }

/-- A load of r8 and an instruction that reads r8, of vector V-H1. -/
def loadOfR8 : Context := { dest := .reg 8#5, src1 := .reg 9#5, src2 := .none, kind := .memoryRead }

/-- The second context of vector V-H1. -/
def useOfR8 : Context := { dest := .reg 10#5, src1 := .reg 8#5, src2 := .reg 11#5, kind := .normal }

/-- The pc and the taken target of the branch vectors. -/
def branchPc : Addr := 0x400100#32

/-- The taken target of the branch vectors. -/
def branchTarget : Addr := 0x400080#32

/-- RESET with one entry of the 1-bit table changed. -/
def withB1 (e : B1Entry) : State := State.reset.setB1 (predictorIndex 15 branchPc) e

/-- RESET with one entry of the 2-bit table changed. -/
def withB2 (e : B2Entry) : State := State.reset.setB2 (predictorIndex 15 branchPc) e

/-! ## Well-formedness: an ill-formed term for the one check -/

theorem test_uninitialized_record_is_ill_formed :
    (Instr.record (.reg 5#5) (.reg 9#5) .none .uninitialized).wellFormed = false := by decide

theorem test_recordable_kinds_are_well_formed :
    (Instr.record .none .none .none .memoryRead).wellFormed = true ∧
      (Instr.record .none .none .none .normal).wellFormed = true := by decide

/-! ## Decoding: every constructor, from words written out by the formats of 30_encoding.md R83 -/

theorem test_decode_reset : decode 0x10000000000000000#68 = .cmd .reset := by decide

/-- `record r8, r9, -, mr` of 95_test_vectors.md. -/
theorem test_decode_record :
    decode 0x200068A4000000000#68 = .cmd (.record (.reg 8#5) (.reg 9#5) .none .memoryRead) := by decide

/-- op 0010, A = zero 12, kind 10, dest 111111, src1 100000, src2 000000, B = 0. -/
theorem test_decode_record_bits :
    decode (0b0010#4 ++ 0b000000000000#12 ++ 0b10#2 ++ 0b111111#6 ++ 0b100000#6 ++ 0b000000#6 ++ 0#32) =
      .cmd (.record (.reg 31#5) (.reg 0#5) .none .normal) := by decide

theorem test_decode_check : decode 0x30000000000000000#68 = .cmd .check := by decide
theorem test_decode_dread : decode 0x40000100000000000#68 = .cmd (.dread 0x1000#32) := by decide
theorem test_decode_dwrite : decode 0x50000100D00000000#68 = .cmd (.dwrite 0x100D#32) := by decide
theorem test_decode_ifetch : decode 0x60040010000000000#68 = .cmd (.ifetch 0x400100#32) := by decide

theorem test_decode_btaken : decode 0x70040010000400080#68 = .cmd (.btaken 0x400100#32 0x400080#32) := by decide

theorem test_decode_bntaken : decode 0x80040010000400104#68 = .cmd (.bntaken 0x400100#32 0x400104#32) := by decide

theorem test_decode_rdctr : decode 0x90000000D00000000#68 = .cmd (.rdctr .b2Miss) := by decide
theorem test_decode_rdstat : decode 0xA0000000000000000#68 = .cmd .rdstat := by decide

/-- 30_encoding.md R90: every reserved opcode, whatever the other bits are. -/
theorem test_reserved_opcodes :
    ∀ op ∈ [0x0#4, 0xB#4, 0xC#4, 0xD#4, 0xE#4, 0xF#4],
      decode (cmdWord op 0#32 0#32) = .illegalOpcode ∧
        decode (cmdWord op 0xFFFFFFFF#32 0xFFFFFFFF#32) = .illegalOpcode := by decide

/-- 30_encoding.md R85: a "zero" bit set, in formats Z, A, R and C. -/
theorem test_zero_bits :
    decode 0x10000000000000001#68 = .illegalOperand ∧
      decode 0x40000100000000001#68 = .illegalOperand ∧
      decode 0x200168A4000000000#68 = .illegalOperand ∧
      decode 0x90000001000000000#68 = .illegalOperand := by
  decide

/-- 30_encoding.md R86 to R88: a reserved slot, both reserved kinds, both reserved selectors. -/
theorem test_reserved_operands :
    decode 0x200048A4000000000#68 = .illegalOperand ∧
      decode 0x200028A4000000000#68 = .illegalOperand ∧
      decode 0x2000E8A4000000000#68 = .illegalOperand ∧
      decode 0x90000000E00000000#68 = .illegalOperand ∧
      decode 0x90000000F00000000#68 = .illegalOperand := by
  decide

/-- The numbering of spec/opcode_table.json: bit 0 of the table is `cmd[0]`. -/
theorem test_decode_table_word :
    decodeTableWord 72 0x40000100000000000 = some (.dread 0x1000#32) ∧
      decodeTableWord 72 0xB0000000000000000 = none := by decide

theorem test_step_runs_the_fetched_word :
    stepped (State.reset.withFetchWord 72 0x40000100000000000) = after State.reset (.dread 0x1000#32) := by decide

/-! ## One step of each command -/

/-- The last paragraph of 95_test_vectors.md, section 2.5: RESET after activity. -/
theorem test_reset_forgets :
    after (after (after State.reset (.dread 0x1000#32)) (.btaken branchPc branchTarget)) .reset = State.reset := by
  decide

/-- 95_test_vectors.md, section 2.5, row 16: only RESET leaves the frozen state. -/
theorem test_reset_unfreezes : (after (frozenState []) .reset).status = statusReset := by decide

/-- V-H1, the second `record`: the old current context is demoted. -/
theorem test_record_demotes :
    (after { State.reset with cur := loadOfR8 } (.record (.reg 10#5) (.reg 8#5) (.reg 11#5) .normal)).prev = loadOfR8 ∧
      (after { State.reset with cur := loadOfR8 } (.record (.reg 10#5) (.reg 8#5) (.reg 11#5) .normal)).cur = useOfR8 := by
  decide

/-- Section 2.5, row 20: RECORD with `armed` set. -/
theorem test_record_twice_faults :
    after (armedState contextReset loadOfR8) (.record (.reg 10#5) (.reg 8#5) .none .normal) =
      { armedState contextReset loadOfR8 with
        status := { armed := true, ready := true, fault := .recordWithoutCheck } } := by decide

/-- V-H1: a use of the loaded register counts. -/
theorem test_check_counts : (after (armedState loadOfR8 useOfR8) .check).ctrs.haz = 1#64 := by decide

/-- V-H12: register 0 is not the sentinel. -/
theorem test_check_sentinel :
    (after (armedState { loadOfR8 with dest := .reg 0#5 } { useOfR8 with src1 := .none, src2 := .none }) .check).ctrs.haz
      = 0#64 := by decide

/-- V-C4, last command: a write-back miss costs 2. -/
theorem test_dread_write_back :
    (after (State.reset.setDline 0 { tag := 4#32, valid := true, dirty := true }) (.dread 0x1400#32)).ctrs.dmiss = 2#64 ∧
      (after (State.reset.setDline 0 { tag := 4#32, valid := true, dirty := true }) (.dread 0x1400#32)).dlineAt 0 =
        { tag := 5#32, valid := true, dirty := false } := by decide

/-- V-C14: the spill wraps at the top of the address space. -/
theorem test_dread_spill_wraps :
    (after State.reset (.dread 0xFFFFFFFD#32)).dline =
      [(0, { tag := 0#32, valid := true, dirty := false }),
        (63, { tag := 0x3FFFFF#32, valid := true, dirty := false })] := by decide

/-- V-C8, last command: evicting a dirty line by a write costs 1. -/
theorem test_dwrite_evicts_dirty :
    (after (State.reset.setDline 0 { tag := 4#32, valid := true, dirty := true }) (.dwrite 0x1400#32)).ctrs.dmiss
      = 1#64 := by decide

/-- V-C13: a write spill leaves both lines invalid. -/
theorem test_dwrite_spill :
    (after State.reset (.dwrite 0x100E#32)).dline =
      [(0, { tag := 4#32, valid := false, dirty := true }), (1, { tag := 4#32, valid := false, dirty := true })] ∧
      (after State.reset (.dwrite 0x100E#32)).ctrs.unal = 1#64 := by decide

/-- V-I3: the reset tag does not hit. -/
theorem test_ifetch_reset_tag :
    (after State.reset (.ifetch 0xFFFFFFFC#32)).ctrs.imiss = 1#64 ∧
      (after State.reset (.ifetch 0xFFFFFFFC#32)).iline = [(31, { tag := 0x7FFFFF#32, valid := true })] := by decide

/-- V-I1, step 5: an unaligned fetch touches no UNAL. -/
theorem test_ifetch_unaligned : (after State.reset (.ifetch 0x400102#32)).ctrs.unal = 0#64 := by decide

/-- V-B3, third command: SNT goes to WT on one taken branch. -/
theorem test_btaken_collapse :
    (after (withB2 { state := .stronglyNotTaken, target := 0x400104#32 }) (.btaken branchPc branchTarget)).b2At 0x40 =
      { state := .weaklyTaken, target := branchTarget } := by decide

/-- V-B1, first command: the stale reset target is a miss. -/
theorem test_btaken_stale :
    (after State.reset (.btaken branchPc branchTarget)).ctrs.b1Miss = 1#64 ∧
      (after State.reset (.btaken branchPc branchTarget)).b2At 0x40 =
        { state := .weaklyTaken, target := branchTarget } := by decide

/-- V-B5, third command: WNT with a stale target goes toward taken. -/
theorem test_bntaken_stale :
    (after (withB2 { state := .weaklyNotTaken, target := 0x400200#32 }) (.bntaken branchPc 0#32)).b2At 0x40 =
      { state := .weaklyTaken, target := 0x400104#32 } := by decide

/-- V-B8: `pc + 4` wraps. -/
theorem test_bntaken_wraps :
    (after State.reset (.bntaken 0xFFFFFFFC#32 0#32)).b1At 0x7FFF = { state := .notTaken, target := 0#32 } := by decide

/-- Section 2.5, row 24: RDCTR acts while frozen. -/
theorem test_rdctr_frozen :
    (after { frozenState [] with ctrs := State.reset.ctrs.set .dacc 1#64 } (.rdctr .dacc)).rsp = some 1#64 := by decide

/-- Section 2.5, row 4: RDCTR while not ready responds with something and leaves code 3. -/
theorem test_rdctr_not_ready :
    (after notReadyState (.rdctr .dacc)).status.fault = .notReady ∧
      (after notReadyState (.rdctr .dacc)).rsp.isSome = true := by decide

/-- Section 2.5, row 21. -/
theorem test_rdstat_word :
    (after { State.reset with status := { armed := true, ready := true, fault := .recordWithoutCheck } } .rdstat).rsp =
      some 0x35#64 := by decide

/-- Section 2.5, row 1. -/
theorem test_rdstat_not_ready : (after notReadyState .rdstat).rsp = some 0#64 := by decide

/-! ## The text form (30_encoding.md R93, R94) -/

theorem test_assemble_record :
    assembleLine "record r8, $9, -, mr ; a load" =
      some [.record (.reg 8#5) (.reg 9#5) .none .memoryRead] := by decide

theorem test_assemble_retire :
    assembleLine "retire -, -, -, nm" = some [.record .none .none .none .normal, .check] := by decide

theorem test_assemble_branch :
    assembleLine "btaken 0x400100, 4194432" = some [.btaken 0x400100#32 0x400080#32] := by decide

/-! ## Concrete instances of the statements' hypotheses -/

theorem test_hypotheses_decode_of_encode :
    (Instr.record (.reg 31#5) .none (.reg 0#5) .normal).wellFormed = true := by decide

theorem test_hypotheses_encode_of_decode : decode 0x90000000D00000000#68 = .cmd (.rdctr .b2Miss) := by decide

theorem test_hypotheses_step_runs :
    (facing [.dread 0x1000#32]).inputs = [.cmd 0x40000100000000000#68] ∧
      decode 0x40000100000000000#68 = .cmd (.dread 0x1000#32) := by decide

theorem test_hypotheses_illegal_word :
    decode 0xB0000000000000000#68 = .illegalOpcode ∧ decode 0x40000100000000001#68 = .illegalOperand ∧
      ({ State.reset with inputs := [.cmd 0xB0000000000000000#68] } : State).inputs =
        .cmd 0xB0000000000000000#68 :: [] := by decide

theorem test_hypotheses_waiting : State.reset.inputs = [] := rfl

theorem test_hypotheses_hardware_reset :
    ({ State.reset with inputs := [.rst] } : State).inputs = .rst :: [] := rfl

theorem test_hypotheses_step_keeps_invariant :
    ∃ t, (facing [.check]).Inv ∧ step (facing [.check]) = .next t ∧ t.status.fault = .checkWithoutRecord :=
  ⟨_, ⟨by decide, by decide, by decide, by decide, by decide, by decide, by decide, by decide, by decide, by decide,
    by decide, by decide, by decide⟩, rfl, by decide⟩

theorem test_hypotheses_config : configOk Config.ref = true := by decide

/-- The smallest and the largest legal parameters of 00_scope.md R7, R8. -/
theorem test_hypotheses_config_bounds :
    configOk { Config.ref with dcache := { rows := 1, lineBytes := 4 }, k := 0, tgtReset := 0xFFFFFFFF#32 } = true ∧
      geometryOk { rows := 2 ^ 29, lineBytes := 4 } = true ∧
      configOk { Config.ref with k := 30 } = true ∧ configOk { Config.ref with k := 31 } = false ∧
      geometryOk { rows := 2 ^ 30, lineBytes := 4 } = false ∧ geometryOk { rows := 48, lineBytes := 16 } = false := by
  decide

theorem test_hypotheses_no_step_changes_configuration : ∃ t, step (facing [.dread 0x1000#32]) = .next t := ⟨_, rfl⟩

theorem test_hypotheses_latched_fault_freezes :
    ∃ t, (frozenState [.cmd 0x30000000000000000#68]).status.fault ≠ .none ∧
      step (frozenState [.cmd 0x30000000000000000#68]) = .next t ∧
      (∀ rest, (frozenState [.cmd 0x30000000000000000#68]).inputs ≠ .rst :: rest) ∧
      (∀ w rest, (frozenState [.cmd 0x30000000000000000#68]).inputs = .cmd w :: rest → decode w ≠ .cmd .reset) := by
  refine ⟨_, by decide, rfl, fun rest h => (by cases h), fun w rest h => ?_⟩
  cases h
  decide

theorem test_hypotheses_frozen_commands :
    Instr.wellFormed .check = true ∧ frozenByFault .check = true ∧ (frozenState []).status.fault ≠ .none := by decide

theorem test_hypotheses_not_ready :
    (Instr.dread 0#32).wellFormed = true ∧ Instr.dread 0#32 ≠ .reset ∧ Instr.dread 0#32 ≠ .rdstat ∧
      notReadyState.status.ready = false ∧ frozenByFault (.dread 0#32) = true := by decide

theorem test_hypotheses_latched_code :
    ∃ t, (facing [.check]).inputs = .cmd 0x30000000000000000#68 :: [] ∧ (facing [.check]).status.fault = .none ∧
      step (facing [.check]) = .next t := ⟨_, by decide, by decide, rfl⟩

theorem test_hypotheses_faulting_command :
    ∃ t, step (facing [.check]) = .next t ∧ (facing [.check]).status.fault = .none ∧ t.status.fault ≠ .none :=
  ⟨_, rfl, by decide, by decide⟩

/-- A stream with every kind of command between a RECORD and its CHECK. -/
def pairedStream : List Instr :=
  [.record (.reg 8#5) (.reg 9#5) .none .memoryRead, .dread 0x1000#32, .rdstat, .check, .ifetch 0x400100#32,
    .record (.reg 10#5) (.reg 8#5) .none .normal, .btaken branchPc branchTarget, .check, .bntaken branchPc 0#32]

theorem test_hypotheses_paired_stream :
    (facing pairedStream).Running ∧ paired (facing pairedStream).status.armed pairedStream = true ∧
      (facing pairedStream).inputs = presented pairedStream := ⟨by decide, by decide, rfl⟩

/-- A load as the host retires it. -/
def hostLoad : HostInstr where
  pc := 0x400100#32
  dest := .reg 8#5
  src1 := .reg 9#5
  src2 := .none
  kind := .memoryRead
  memory := [.load 0x1000#32]
  branch := none

theorem test_hypotheses_host_translation : ∀ h ∈ [hostLoad], h.kind.recordable = true := by decide

/-- 30_encoding.md R95, in the order of program P4. -/
theorem test_host_commands :
    hostCommands hostLoad =
      [.ifetch 0x400100#32, .record (.reg 8#5) (.reg 9#5) .none .memoryRead, .check, .dread 0x1000#32] := by decide

/-- An atomic read-modify-write is an ordinary DREAD and DWRITE (20_memory.md R65). -/
theorem test_host_commands_of_read_modify_write :
    hostCommands { hostLoad with memory := [.load 0x1000#32, .store 0x1000#32] } =
      [.ifetch 0x400100#32, .record (.reg 8#5) (.reg 9#5) .none .memoryRead, .check, .dread 0x1000#32,
        .dwrite 0x1000#32] := by decide

theorem test_hypotheses_counters_only_go_up :
    ∃ t, (facing [.dread 0x1000#32]).Headroom 4 ∧ step (facing [.dread 0x1000#32]) = .next t ∧
      (∀ rest, (facing [.dread 0x1000#32]).inputs ≠ .rst :: rest) ∧
      (∀ w rest, (facing [.dread 0x1000#32]).inputs = .cmd w :: rest → decode w ≠ .cmd .reset) := by
  refine ⟨_, fun c => (by cases c <;> decide), rfl, fun rest h => (by cases h), fun w rest h => ?_⟩
  cases h
  decide

theorem test_hypotheses_only_their_counters :
    ∃ t, exec (.dread 0x1000#32) State.reset = .next t ∧ Counter.haz ∉ countersOf (.dread 0x1000#32) :=
  ⟨_, rfl, by decide⟩

theorem test_hypotheses_written_only_by :
    ∃ t, exec (.ifetch 0x400100#32) State.reset = .next t ∧ Instr.ifetch 0x400100#32 ≠ .reset := ⟨_, rfl, by decide⟩

theorem test_hypotheses_record_result :
    State.reset.Running ∧ Kind.memoryRead.recordable = true ∧ State.reset.status.armed = false ∧
      (armedState contextReset loadOfR8).Running ∧ (armedState contextReset loadOfR8).status.armed = true := by decide

theorem test_hypotheses_record_of_uninitialized : State.reset.status.fault = .none := rfl

theorem test_hypotheses_check_result :
    (armedState loadOfR8 useOfR8).Running ∧ (armedState loadOfR8 useOfR8).status.armed = true ∧
      State.reset.Running ∧ State.reset.status.armed = false := by decide

/-- One instance for each clause: the sentinel on both sides, the same register, another register. -/
theorem test_hypotheses_slots :
    ∀ p ∈ [(({ loadOfR8 with dest := .none } : Context), ({ useOfR8 with src2 := .none } : Context)),
        (loadOfR8, { useOfR8 with src2 := .none }), ({ loadOfR8 with dest := .reg 0#5 }, { useOfR8 with src2 := .none })],
      (armedState p.1 p.2).Running ∧ (armedState p.1 p.2).status.armed = true ∧
        (armedState p.1 p.2).prev.kind = .memoryRead ∧ ((armedState p.1 p.2).ctr .haz).toNat + 1 < 2 ^ 64 ∧
        (armedState p.1 p.2).cur.src2 = .none ∧ (armedState p.1 p.2).cur.src1 = .reg 8#5 := by decide

theorem test_hypotheses_hazard_count :
    (facing pairedStream).Running ∧ (facing pairedStream).status.armed = false ∧
      (facing pairedStream).cur.kind = .uninitialized ∧ (facing pairedStream).prev.kind = .uninitialized ∧
      paired false pairedStream = true ∧ Instr.reset ∉ pairedStream ∧
      ((facing pairedStream).ctr .haz).toNat + loadUses (recorded pairedStream) < 2 ^ 64 ∧
      loadUses (recorded pairedStream) = 1 := by decide

/-- The geometries of REF and the two extremes of a line of one word and of one row. -/
theorem test_hypotheses_geometry :
    ∀ g ∈ [Config.ref.dcache, Config.ref.icache, ({ rows := 32, lineBytes := 4 } : Geometry), { rows := 1, lineBytes := 16 }],
      geometryOk g = true := by decide

/-- Inside the last row, at its wrap, and in the middle of a line (V-C11, V-C17, V-C10). -/
theorem test_hypotheses_spill :
    (0x100D#32 : Addr).toNat % 4 ≠ 0 ∧ wordOf Config.ref.dcache 0x100D#32 = lineWords Config.ref.dcache - 1 ∧
      rowOf Config.ref.dcache 0x100D#32 + 1 ≠ Config.ref.dcache.rows ∧
      (0x13FD#32 : Addr).toNat % 4 ≠ 0 ∧ wordOf Config.ref.dcache 0x13FD#32 = lineWords Config.ref.dcache - 1 ∧
      rowOf Config.ref.dcache 0x13FD#32 + 1 = Config.ref.dcache.rows ∧
      (0x1001#32 : Addr).toNat % 4 ≠ 0 ∧ wordOf Config.ref.dcache 0x1001#32 ≠ lineWords Config.ref.dcache - 1 := by decide

theorem test_hypotheses_index : (0 : Nat) ≤ 30 ∧ (30 : Nat) ≤ 30 := by decide

/-- An aligned address, an unaligned one inside its line, and one that spills (V-C15, V-C10, V-C11). -/
theorem test_hypotheses_data_access :
    State.reset.Running ∧
      (¬ ((0x100C#32 : Addr).toNat % 4 ≠ 0 ∧
        wordOf State.reset.cfg.dcache 0x100C#32 = lineWords State.reset.cfg.dcache - 1)) ∧
      (¬ ((0x1001#32 : Addr).toNat % 4 ≠ 0 ∧
        wordOf State.reset.cfg.dcache 0x1001#32 = lineWords State.reset.cfg.dcache - 1)) ∧
      (0x100D#32 : Addr).toNat % 4 ≠ 0 ∧
      wordOf State.reset.cfg.dcache 0x100D#32 = lineWords State.reset.cfg.dcache - 1 := by decide

theorem test_hypotheses_resident_line :
    (State.reset.setDline 0 { tag := 4#32, valid := true, dirty := true }).Running ∧
      ((State.reset.setDline 0 { tag := 4#32, valid := true, dirty := true }).dlineAt
        (rowOf Config.ref.dcache 0x1000#32)).valid = true ∧
      ((State.reset.setDline 0 { tag := 4#32, valid := true, dirty := true }).dlineAt
        (rowOf Config.ref.dcache 0x1000#32)).tag = tagOf Config.ref.dcache 0x1000#32 ∧
      (0x1000#32 : Addr).toNat % 4 = 0 ∧
      ((State.reset.setIline 16 { tag := 0x2000#32, valid := true }).ilineAt
        (rowOf Config.ref.icache 0x400100#32)).valid = true ∧
      ((State.reset.setIline 16 { tag := 0x2000#32, valid := true }).ilineAt
        (rowOf Config.ref.icache 0x400100#32)).tag = tagOf Config.ref.icache 0x400100#32 := by decide

theorem test_hypotheses_writes_alone :
    (facing ([0x1000#32, 0x100E#32].map .dwrite)).Running ∧
      (∀ r, ((facing ([0x1000#32, 0x100E#32].map .dwrite)).dlineAt r).valid = false) ∧
      (facing ([0x1000#32, 0x100E#32].map .dwrite)).inputs = presented ([0x1000#32, 0x100E#32].map .dwrite) :=
  ⟨by decide, fun _ => rfl, rfl⟩

theorem test_hypotheses_branch_results : State.reset.Running := by decide

/-- For every entry, so for each row of the 1-bit table, a state that holds it at the branch's index. -/
theorem test_hypotheses_one_bit (e : B1Entry) :
    (withB1 e).Running ∧ (withB1 e).b1At (predictorIndex (withB1 e).cfg.k branchPc) = e :=
  ⟨⟨rfl, rfl⟩, (setB1_b1At _ _ _ _).trans (if_pos rfl)⟩

/-- For every entry, so for each row of the 2-bit table, a state that holds it at the branch's index. -/
theorem test_hypotheses_two_bit (e : B2Entry) :
    (withB2 e).Running ∧ (withB2 e).b2At (predictorIndex (withB2 e).cfg.k branchPc) = e :=
  ⟨⟨rfl, rfl⟩, (setB2_b2At _ _ _ _).trans (if_pos rfl)⟩

/-- The index of the branch vectors (95_test_vectors.md, section 2.4). -/
theorem test_branch_index : predictorIndex Config.ref.k branchPc = 0x40 := by decide

theorem test_hypotheses_each_strategy :
    State.reset.Running ∧ State.reset.Headroom 1 ∧
      ∀ i ∈ [Instr.btaken branchPc branchTarget, .bntaken branchPc branchTarget],
        i ∈ [Instr.btaken branchPc branchTarget, .bntaken branchPc branchTarget] :=
  ⟨by decide, fun c => by cases c <;> decide, fun _ h => h⟩

theorem test_hypotheses_scores_balanced :
    ∃ t, (facing [.btaken branchPc branchTarget]).ScoresBalanced ∧
      (facing [.btaken branchPc branchTarget]).Headroom 1 ∧
      step (facing [.btaken branchPc branchTarget]) = .next t ∧ t.ctrs.atHit = 1#64 :=
  ⟨_, by decide, fun c => by cases c <;> decide, rfl, by decide⟩

theorem test_hypotheses_scores_count :
    (facing pairedStream).Running ∧ paired (facing pairedStream).status.armed pairedStream = true ∧
      Instr.reset ∉ pairedStream ∧ (facing pairedStream).inputs = presented pairedStream ∧
      (facing pairedStream).Headroom pairedStream.length ∧ takenIn pairedStream = 1 ∧ notTakenIn pairedStream = 1 :=
  ⟨by decide, by decide, by decide, rfl, fun c => by cases c <;> decide, by decide, by decide⟩

theorem test_hypotheses_one_branch :
    [Instr.btaken branchPc branchTarget, .bntaken branchPc 0#32].length < 2 ^ 64 ∧
      ∀ i ∈ [Instr.btaken branchPc branchTarget, .bntaken branchPc 0#32],
        i = .btaken branchPc branchTarget ∨ ∃ x, i = .bntaken branchPc x := by
  refine ⟨by decide, fun i hi => ?_⟩
  rcases List.mem_cons.mp hi with h | h
  · exact .inl h
  · exact .inr ⟨0#32, List.mem_singleton.mp h⟩

theorem test_hypotheses_rdctr : (frozenState []).status.ready = true ∧ State.reset.status.ready = true := by decide

theorem test_hypotheses_rdctr_before_reset : notReadyState.status.ready = false := by decide

theorem test_hypotheses_report :
    (facing report).status.ready = true ∧ (facing report).inputs = presented report := ⟨rfl, rfl⟩

theorem test_hypotheses_reset_erases_history :
    decode 0x10000000000000000#68 = .cmd .reset ∧
      ({ notReadyState with inputs := [.cmd 0x10000000000000000#68] } : State).inputs =
        ({ frozenState [] with inputs := [.cmd 0x10000000000000000#68] } : State).inputs ∧
      notReadyState.cfg = (frozenState []).cfg ∧ notReadyState.draws = (frozenState []).draws := by decide

/-- Two states that agree in the data cache model and in nothing else of the components. -/
theorem test_hypotheses_each_component :
    (Instr.dread 0x1000#32).wellFormed = true ∧ componentOf (.dread 0x1000#32) = some .dataCache ∧
      SameIn .dataCache State.reset ((armedState loadOfR8 useOfR8).setCtr .iacc 7#64) ∧
      SameShared State.reset ((armedState loadOfR8 useOfR8).setCtr .iacc 7#64) ∧
      ¬ SameIn .hazardTracker State.reset ((armedState loadOfR8 useOfR8).setCtr .iacc 7#64) ∧
      ¬ SameIn .instructionCache State.reset ((armedState loadOfR8 useOfR8).setCtr .iacc 7#64) :=
  ⟨rfl, rfl, ⟨rfl, by decide⟩, ⟨rfl, rfl, rfl, rfl⟩, fun h => absurd h.1.1 (by decide), fun h => absurd h.2 (by decide)⟩

/-- The host's load in the order of program P4, and with the data access before the pair and the fetch after it. -/
theorem test_hypotheses_interleaving :
    State.reset.Running ∧ paired State.reset.status.armed (hostCommands hostLoad) = true ∧
      SameInterleaved (hostCommands hostLoad)
        [.dread 0x1000#32, .record (.reg 8#5) (.reg 9#5) .none .memoryRead, .check, .ifetch 0x400100#32] ∧
      State.reset.Headroom (4 * (hostCommands hostLoad).length) :=
  ⟨by decide, by decide, ⟨by decide, by decide, fun k => by cases k <;> decide⟩, fun c => by cases c <;> decide⟩

end Sys2Proof.Tests
end

section
/-! PROOFS. The invariant of the state (10_state.md R26 to R33): what keeps it, and that reset and every step do. -/

namespace Sys2Proof.Machine

/-! ## The parts of the state that the invariant does not mention -/

/-- The invariant says nothing of the counters and of the model's own fields but the configuration. -/
theorem State.Inv.of_unmentioned {s : State} (h : s.Inv) (ctrs : Counters) (rsp : Option Count) (draws : Nat)
    (inputs : List Input) : ({ s with ctrs := ctrs, rsp := rsp, draws := draws, inputs := inputs } : State).Inv :=
  { h with }

theorem quiet_keeps_inv {s : State} (h : s.Inv) : (quiet s).Inv := h.of_unmentioned ..

theorem respond_keeps_inv (v : Count) {s : State} (h : s.Inv) : (respond v s).Inv := h.of_unmentioned ..

theorem count_keeps_inv (c : Counter) (n : Nat) {s : State} (h : s.Inv) : (count c n s).Inv := by
  rw [count_eq]
  exact h.of_unmentioned ..

/-! ## Arrays: a write inside the array, of an entry whose tag fits -/

theorem setDline_keeps_inv {s : State} (h : s.Inv) {r : Nat} {l : DLine} (hr : r < s.cfg.dcache.rows)
    (hl : l.tag.toNat < 2 ^ tagBits s.cfg.dcache) : (s.setDline r l).Inv :=
  { h with
    dlines := Table.write_canonical r l h.dlines hr
    dtags := fun e he => by
      rcases Table.mem_write he with ⟨rfl, _⟩ | he
      · exact hl
      · exact h.dtags e he }

theorem setIline_keeps_inv {s : State} (h : s.Inv) {r : Nat} {l : ILine} (hr : r < s.cfg.icache.rows)
    (hl : l.tag.toNat < 2 ^ tagBits s.cfg.icache) : (s.setIline r l).Inv :=
  { h with
    ilines := Table.write_canonical r l h.ilines hr
    itags := fun e he => by
      rcases Table.mem_write he with ⟨rfl, _⟩ | he
      · exact hl
      · exact h.itags e he }

theorem setTarget_keeps_inv {s : State} (h : s.Inv) {i : Nat} (a : Addr) (hi : i < predictorSize s.cfg) :
    (s.setTarget i a).Inv :=
  { h with targets := Table.write_canonical i a h.targets hi }

theorem setB1_keeps_inv {s : State} (h : s.Inv) {i : Nat} (e : B1Entry) (hi : i < predictorSize s.cfg) :
    (s.setB1 i e).Inv :=
  { h with oneBit := Table.write_canonical i e h.oneBit hi }

theorem setB2_keeps_inv {s : State} (h : s.Inv) {i : Nat} (e : B2Entry) (hi : i < predictorSize s.cfg) :
    (s.setB2 i e).Inv :=
  { h with twoBit := Table.write_canonical i e h.twoBit hi }

/-! ## What a well-formed configuration gives: rows, tags and indices in range -/

theorem State.Inv.geometries {s : State} (h : s.Inv) :
    geometryOk s.cfg.dcache = true ∧ geometryOk s.cfg.icache = true := by
  obtain ⟨hd, hi, _⟩ := configOk_iff.mp h.config
  exact ⟨hd, hi⟩

theorem State.Inv.predictorIndex_lt {s : State} (h : s.Inv) (pc : Addr) :
    predictorIndex s.cfg.k pc < predictorSize s.cfg := by
  obtain ⟨_, _, hk⟩ := configOk_iff.mp h.config
  exact Machine.predictorIndex_lt hk pc

/-! ## The commands' own operations -/

theorem readLine_keeps_inv (a : Addr) {s : State} (h : s.Inv) : (readLine a s).Inv :=
  setDline_keeps_inv (count_keeps_inv _ _ h) (by simpa using rowOf_lt h.geometries.1 a)
    (by simpa [readLineAfter] using tagOf_lt h.geometries.1 a)

theorem writeLine_keeps_inv (a : Addr) {s : State} (h : s.Inv) : (writeLine a s).Inv :=
  setDline_keeps_inv (count_keeps_inv _ _ h) (by simpa using rowOf_lt h.geometries.1 a)
    (by simpa [writeLineAfter] using tagOf_lt h.geometries.1 a)

theorem fetchLine_keeps_inv (a : Addr) {s : State} (h : s.Inv) : (fetchLine a s).Inv :=
  setIline_keeps_inv (count_keeps_inv _ _ h) (by simpa using rowOf_lt h.geometries.2 a)
    (by simpa using tagOf_lt h.geometries.2 a)

theorem scoreB1_keeps_inv {i : Nat} (r : Scored B1Entry) {s : State} (h : s.Inv) (hi : i < predictorSize s.cfg) :
    (scoreB1 i r s).Inv :=
  setB1_keeps_inv (count_keeps_inv _ _ h) r.entry (by simpa using hi)

theorem scoreB2_keeps_inv {i : Nat} (r : Scored B2Entry) {s : State} (h : s.Inv) (hi : i < predictorSize s.cfg) :
    (scoreB2 i r s).Inv :=
  setB2_keeps_inv (count_keeps_inv _ _ h) r.entry (by simpa using hi)

theorem branchTaken_keeps_inv {i : Nat} (tgt : Addr) {s : State} (h : s.Inv) (hi : i < predictorSize s.cfg) :
    (branchTaken i tgt s).Inv := by
  have hat : (atTaken i tgt s).Inv := setTarget_keeps_inv (count_keeps_inv _ _ h) tgt (by simpa using hi)
  have hnt : (ntTaken (atTaken i tgt s)).Inv := count_keeps_inv _ _ hat
  have hb1 : (scoreB1Taken i tgt (ntTaken (atTaken i tgt s))).Inv :=
    scoreB1_keeps_inv _ hnt (by simpa [ntTaken, atTaken] using hi)
  exact scoreB2_keeps_inv _ hb1 (by simpa [scoreB1Taken, scoreB1, ntTaken, atTaken] using hi)

theorem branchNotTaken_keeps_inv {i : Nat} (nt : Addr) {s : State} (h : s.Inv) (hi : i < predictorSize s.cfg) :
    (branchNotTaken i nt s).Inv := by
  have hnt : (ntNotTaken (atNotTaken s)).Inv := count_keeps_inv _ _ (count_keeps_inv _ _ h)
  have hb1 : (scoreB1NotTaken i nt (ntNotTaken (atNotTaken s))).Inv :=
    scoreB1_keeps_inv _ hnt (by simpa [ntNotTaken, atNotTaken] using hi)
  exact scoreB2_keeps_inv _ hb1 (by simpa [scoreB1NotTaken, scoreB1, ntNotTaken, atNotTaken] using hi)

/-! ## The status register and the contexts -/

/-- Raising a code keeps the invariant if the code agrees with the status: a latch that holds a code already does not
change, and an empty one takes this code (60_exceptions.md R171). -/
theorem raise_keeps_inv {code : FaultCode} {s : State} (h : s.Inv)
    (hn : code = .notReady → s.status.ready = false)
    (hc : code = .checkWithoutRecord → s.status.ready = true ∧ s.status.armed = false)
    (hr : code = .recordWithoutCheck → s.status.ready = true ∧ s.status.armed = true) : (raise code s).Inv := by
  by_cases hf : s.status.fault = .none
  · have e : raise code s = { s with status := { s.status with fault := code } } := by
      rw [raise, latch_of_none code hf]
    rw [e]
    exact { h with notReady := hn, checkFault := hc, recordFault := hr }
  · have e : raise code s = s := by rw [raise, latch_of_some code hf]
    rw [e]
    exact h

/-- With no fault latched, the pending RECORD and the contexts are all that the invariant ties to the status. -/
theorem hazard_update_keeps_inv {s : State} (h : s.Inv) (hf : s.status.fault = .none) {prev cur : Context} {b : Bool}
    (harmed : b = true → s.status.ready = true ∧ cur.kind ≠ .uninitialized)
    (hprev : s.status.ready = true → prev.kind ≠ .uninitialized → cur.kind ≠ .uninitialized) :
    (setArmed b { s with prev := prev, cur := cur }).Inv :=
  { h with
    armed := harmed
    previous := hprev
    notReady := fun e => by simp [hf] at e
    checkFault := fun e => by simp [hf] at e
    recordFault := fun e => by simp [hf] at e }

theorem ne_uninitialized_of_recordable {k : Kind} (h : k.recordable = true) : k ≠ .uninitialized := by
  rintro rfl
  simp [Kind.recordable] at h

theorem record_keeps_inv (d a b : RegSlot) {k : Kind} {s : State} (h : s.Inv) (hk : k.recordable = true)
    (hr : s.status.ready = true) (hf : s.status.fault = .none) : (record d a b k s).Inv := by
  have hk' := ne_uninitialized_of_recordable hk
  rcases Bool.eq_false_or_eq_true s.status.armed with ha | ha
  · rw [record_armed d a b k ha]
    exact raise_keeps_inv h nofun nofun fun _ => ⟨hr, ha⟩
  · rw [record_unarmed d a b k ha]
    exact hazard_update_keeps_inv h hf (fun _ => ⟨hr, hk'⟩) fun _ _ => hk'

theorem check_keeps_inv {s : State} (h : s.Inv) (hr : s.status.ready = true) (hf : s.status.fault = .none) :
    (check s).Inv := by
  rcases Bool.eq_false_or_eq_true s.status.armed with ha | ha
  · rw [check_armed ha]
    have hc := count_keeps_inv .haz (if loadUse s.prev s.cur then 1 else 0) h
    exact hazard_update_keeps_inv hc (by simpa using hf) nofun hc.previous
  · rw [check_unarmed ha]
    exact raise_keeps_inv h nofun (fun _ => ⟨hr, ha⟩) nofun

/-! ## The two resets -/

/-- Nothing is listed in any array and no fault, no RECORD and no context is held (10_state.md R37, last column). -/
theorem afterReset_inv {cfg : Config} (h : configOk cfg = true) : (State.afterReset cfg).Inv where
  config := h
  dlines := ⟨.nil, nofun⟩
  dtags := nofun
  ilines := ⟨.nil, nofun⟩
  itags := nofun
  targets := ⟨.nil, nofun⟩
  oneBit := ⟨.nil, nofun⟩
  twoBit := ⟨.nil, nofun⟩
  armed := nofun
  previous := fun _ hp => absurd rfl hp
  notReady := nofun
  checkFault := nofun
  recordFault := nofun

theorem initialise_keeps_inv {s : State} (h : s.Inv) : (initialise s).Inv := by
  rw [initialise_eq]
  exact (afterReset_inv h.config).of_unmentioned ..

/-- The free values fill whole arrays with tags cut to their width, and the block is not ready
(70_reset_and_hazards.md R190). -/
theorem hardReset_keeps_inv {s : State} (h : s.Inv) : (hardReset s).Inv where
  config := h.config
  dlines := Table.ofFn_canonical ..
  dtags e he := by rw [Table.mem_ofFn he]; exact fitTag_lt ..
  ilines := Table.ofFn_canonical ..
  itags e he := by rw [Table.mem_ofFn he]; exact fitTag_lt ..
  targets := Table.ofFn_canonical ..
  oneBit := Table.ofFn_canonical ..
  twoBit := Table.ofFn_canonical ..
  armed := nofun
  previous := nofun
  notReady := nofun
  checkFault := nofun
  recordFault := nofun

/-! ## Every step -/

theorem kept_inv : Kept State.Inv where
  quiet _ h := quiet_keeps_inv h
  respond v _ h := respond_keeps_inv v h
  draw _ h := h.of_unmentioned ..
  raiseOpcode _ h := raise_keeps_inv h nofun nofun nofun
  raiseOperand _ h := raise_keeps_inv h nofun nofun nofun
  raiseNotReady _ hr h := raise_keeps_inv h (fun _ => hr) nofun nofun
  record d a b _ _ hk hr hf h := record_keeps_inv d a b h hk hr hf
  check _ hr hf h := check_keeps_inv h hr hf
  count c n _ h := count_keeps_inv c n h
  readLine a _ h := readLine_keeps_inv a h
  writeLine a _ h := writeLine_keeps_inv a h
  fetchLine a _ h := fetchLine_keeps_inv a h
  branchTaken pc tgt _ h := branchTaken_keeps_inv tgt h (h.predictorIndex_lt pc)
  branchNotTaken pc nt _ h := branchNotTaken_keeps_inv nt h (h.predictorIndex_lt pc)
  initialise _ h := initialise_keeps_inv h

/-- Settles O9: every shared operation keeps the invariant, so every command and every step does. -/
theorem everyStepKeepsTheInvariant : Obligations.EveryStepKeepsTheInvariant := fun _ _ h e =>
  kept_inv.step (fun _ _ h => h.of_unmentioned ..) (fun _ h => hardReset_keeps_inv h) h e

/-- Settles O10: the reference configuration is well formed (00_scope.md R9). -/
theorem resetMeetsTheInvariant : Obligations.ResetMeetsTheInvariant :=
  ⟨fun _ => afterReset_inv, afterReset_inv (by decide)⟩

/-- Settles O49: every counter is zero (10_state.md R35). -/
theorem resetMeetsTheScoresBalance : Obligations.ResetMeetsTheScoresBalance := by
  have balanced : ∀ cfg, (State.afterReset cfg).ScoresBalanced := fun _ _ => ⟨rfl, rfl, rfl, rfl⟩
  exact ⟨balanced, balanced Config.ref⟩

end Sys2Proof.Machine
end

section
/-! PROOFS. What a command changes (10_state.md R31, R37): the inversion of exec, the counters, the elements. -/

namespace Sys2Proof.Machine

/-! ## All that a command can do -/

/-- What a command does to the elements of the block when it acts (60_exceptions.md R176). RDCTR and RDSTAT only drive
the response port. -/
def effectOf : Instr → State → State
  | .reset, s => initialise s
  | .record dest src1 src2 kind, s => record dest src1 src2 kind s
  | .check, s => check s
  | .dread a, s => dataAccess readLine a s
  | .dwrite a, s => dataAccess writeLine a s
  | .ifetch a, s => fetchLine a (count .iacc 1 s)
  | .btaken pc tgt, s => branchTaken (predictorIndex s.cfg.k pc) tgt s
  | .bntaken pc _, s => branchNotTaken (predictorIndex s.cfg.k pc) (fallThrough pc) s
  | .rdctr _, s => s
  | .rdstat, s => s

/-- The two states differ at most in the latched fault, the response port and the draw counter. -/
def SameBlock (s t : State) : Prop :=
  ∃ f rsp draws, t = { s with status := { s.status with fault := f }, rsp := rsp, draws := draws }

theorem quiet_sameBlock (s : State) : SameBlock s (quiet s) := ⟨s.status.fault, none, s.draws, rfl⟩

theorem respond_sameBlock (v : Count) (s : State) : SameBlock s (respond v s) :=
  ⟨s.status.fault, some v, s.draws, rfl⟩

theorem raise_sameBlock (code : FaultCode) {s t : State} (h : SameBlock s t) : SameBlock s (raise code t) := by
  obtain ⟨f, rsp, draws, rfl⟩ := h
  refine ⟨if f = .none then code else f, rsp, draws, ?_⟩
  by_cases hf : f = .none <;> simp [raise, Status.latch, hf]

theorem draw_sameBlock {s t : State} (h : SameBlock s t) : SameBlock s { t with draws := t.draws + 1 } := by
  obtain ⟨f, rsp, draws, rfl⟩ := h
  exact ⟨f, rsp, draws + 1, rfl⟩

theorem SameBlock.ctr {s t : State} (h : SameBlock s t) (c : Counter) : t.ctr c = s.ctr c := by
  obtain ⟨_, _, _, rfl⟩ := h
  rfl

theorem SameBlock.elements {s t : State} (h : SameBlock s t) (k : Component) : SameElements k s t := by
  obtain ⟨_, _, _, rfl⟩ := h
  cases k <;> simp [SameElements]

theorem SameBlock.ready {s t : State} (h : SameBlock s t) : t.status.ready = s.status.ready := by
  obtain ⟨_, _, _, rfl⟩ := h
  rfl

theorem whenRunning_acts_or_sameBlock (act : State → State) (s : State) :
    whenRunning act s = act (quiet s) ∨ SameBlock s (whenRunning act s) := by
  rcases whenRunning_cases act s with ⟨_, e⟩ | ⟨_, _, e⟩ | ⟨_, _, e⟩
  · exact .inr (e ▸ raise_sameBlock _ (quiet_sameBlock s))
  · exact .inr (e ▸ quiet_sameBlock s)
  · exact .inl e

/-- A command acts, or it changes nothing but the latch, the response port and the draw counter
(60_exceptions.md R172, R175 to R177; 43_control.md R161, R162). -/
theorem exec_acts_or_sameBlock {i : Instr} {s t : State} (e : exec i s = .next t) :
    t = effectOf i (quiet s) ∨ SameBlock s t := by
  cases i with
  | reset => rw [exec_reset] at e; injection e with e; exact .inl e.symm
  | record d a b k =>
    rw [exec_record] at e
    injection e with e
    subst e
    split
    · exact whenRunning_acts_or_sameBlock (record d a b k) s
    · exact .inr (raise_sameBlock _ (quiet_sameBlock s))
  | rdctr c =>
    rw [exec_rdctr] at e
    injection e with e
    subst e
    split
    · exact .inr (raise_sameBlock _ (draw_sameBlock (respond_sameBlock _ s)))
    · exact .inr (respond_sameBlock _ s)
  | rdstat => rw [exec_rdstat] at e; injection e with e; exact .inr (e ▸ respond_sameBlock _ s)
  | check | dread | dwrite | ifetch | btaken | bntaken =>
    injection e with e
    exact e ▸ whenRunning_acts_or_sameBlock _ s

/-! ## The counters a command changes -/

theorem record_ctr (d a b : RegSlot) (k : Kind) (s : State) (c : Counter) : (record d a b k s).ctr c = s.ctr c := by
  rw [State.ctr, record_ctrs, ← State.ctr]

theorem check_ctr_other (s : State) {c : Counter} (h : c ≠ .haz) : (check s).ctr c = s.ctr c := by
  rcases Bool.eq_false_or_eq_true s.status.armed with ha | ha
  · rw [check_armed ha, setArmed_ctr, count_ctr_other _ _ h]
  · rw [check_unarmed ha, raise_ctr]

theorem fetchLine_ctr_other (a : Addr) (s : State) {c : Counter} (h : c ≠ .imiss) :
    (fetchLine a s).ctr c = s.ctr c := by rw [fetchLine_ctr, count_ctr_other _ _ h]

theorem branchTaken_ctr_other (i : Nat) (tgt : Addr) (s : State) {c : Counter}
    (h : c ∉ [Counter.atHit, .ntMiss, .b1Hit, .b1Miss, .b2Hit, .b2Miss]) :
    (branchTaken i tgt s).ctr c = s.ctr c := by
  simp only [List.mem_cons, List.not_mem_nil, or_false, not_or] at h
  obtain ⟨hat, hnt, hb1, hb1', hb2, hb2'⟩ := h
  rw [branchTaken_ctr, count_ctr_other _ _ (by split <;> assumption), count_ctr_other _ _ (by split <;> assumption),
    count_ctr_other _ _ hnt, count_ctr_other _ _ hat]

theorem branchNotTaken_ctr_other (i : Nat) (nt : Addr) (s : State) {c : Counter}
    (h : c ∉ [Counter.atMiss, .ntHit, .b1Hit, .b1Miss, .b2Hit, .b2Miss]) :
    (branchNotTaken i nt s).ctr c = s.ctr c := by
  simp only [List.mem_cons, List.not_mem_nil, or_false, not_or] at h
  obtain ⟨hat, hnt, hb1, hb1', hb2, hb2'⟩ := h
  rw [branchNotTaken_ctr, count_ctr_other _ _ (by split <;> assumption), count_ctr_other _ _ (by split <;> assumption),
    count_ctr_other _ _ hnt, count_ctr_other _ _ hat]

theorem Counter.mem_all (c : Counter) : c ∈ Counter.all := by cases c <;> decide

theorem effectOf_ctr_other (i : Instr) (s : State) {c : Counter} (h : c ∉ countersOf i) :
    (effectOf i s).ctr c = s.ctr c := by
  cases i with
  | reset => exact absurd (Counter.mem_all c) h
  | record d a b k => exact record_ctr d a b k s c
  | check => exact check_ctr_other s (by simpa [countersOf] using h)
  | dread a =>
    simp only [countersOf, List.mem_cons, List.not_mem_nil, or_false, not_or] at h
    obtain ⟨hmiss, hunal, hacc⟩ := h
    exact dataAccess_ctr_other a s (fun b t => readLine_ctr_other b t hmiss) hacc hunal
  | dwrite a =>
    simp only [countersOf, List.mem_cons, List.not_mem_nil, or_false, not_or] at h
    obtain ⟨hmiss, hunal, hacc⟩ := h
    exact dataAccess_ctr_other a s (fun b t => writeLine_ctr_other b t hmiss) hacc hunal
  | ifetch a =>
    simp only [countersOf, List.mem_cons, List.not_mem_nil, or_false, not_or] at h
    obtain ⟨hmiss, hacc⟩ := h
    exact (fetchLine_ctr_other a _ hmiss).trans (count_ctr_other _ _ hacc)
  | btaken pc tgt => exact branchTaken_ctr_other _ tgt s h
  | bntaken pc tgt => exact branchNotTaken_ctr_other _ _ s h
  | rdctr | rdstat => rfl

/-- Settles O22: a command that acts changes the counters listed for it, any other command none. -/
theorem commandsChangeOnlyTheirCounters : Obligations.CommandsChangeOnlyTheirCounters := by
  intro i s t c e hc
  rcases exec_acts_or_sameBlock e with rfl | h
  · exact effectOf_ctr_other i (quiet s) hc
  · exact h.ctr c

/-! ## How far a counter goes up -/

/-- Counter `c` went up from `s` to `t` by some number up to `b`, wherever the spec gives the sum. -/
def RisesBy (c : Counter) (b : Nat) (s t : State) : Prop := ∃ n ≤ b, CountedUp s t c n

theorem RisesBy.of_eq {c : Counter} {s t : State} (h : t.ctr c = s.ctr c) : RisesBy c 0 s t :=
  ⟨0, Nat.le_refl 0, fun _ => by rw [h, Nat.add_zero]⟩

theorem RisesBy.mono {c : Counter} {b b' : Nat} {s t : State} (h : RisesBy c b s t) (hb : b ≤ b') :
    RisesBy c b' s t := by
  obtain ⟨n, hn, hc⟩ := h
  exact ⟨n, hn.trans hb, hc⟩

theorem RisesBy.trans {c : Counter} {b b' : Nat} {s t u : State} (h : RisesBy c b s t) (g : RisesBy c b' t u) :
    RisesBy c (b + b') s u := by
  obtain ⟨m, hm, hst⟩ := h
  obtain ⟨n, hn, htu⟩ := g
  refine ⟨m + n, Nat.add_le_add hm hn, fun hlt => ?_⟩
  have hmid := hst (by omega)
  rw [htu (by omega), hmid, Nat.add_assoc]

/-- `RisesBy` looks at the counter only. -/
theorem RisesBy.congr {c : Counter} {b : Nat} {s t u : State} (h : RisesBy c b s t) (e : u.ctr c = t.ctr c) :
    RisesBy c b s u := by
  obtain ⟨n, hn, hc⟩ := h
  exact ⟨n, hn, fun hlt => e ▸ hc hlt⟩

theorem RisesBy.bounds {c : Counter} {b : Nat} {s t : State} (h : RisesBy c b s t)
    (hlt : (s.ctr c).toNat + b < 2 ^ 64) :
    (s.ctr c).toNat ≤ (t.ctr c).toNat ∧ (t.ctr c).toNat ≤ (s.ctr c).toNat + b := by
  obtain ⟨n, hn, hc⟩ := h
  have := hc (by omega)
  omega

/-- The bound is the increment for the counter that is counted in and nothing for the others. -/
theorem count_risesBy (c d : Counter) (n : Nat) (s : State) : RisesBy c (if c = d then n else 0) s (count d n s) := by
  by_cases h : c = d
  · subst h
    rw [if_pos rfl]
    exact ⟨n, Nat.le_refl n, count_ctr_same c n s⟩
  · rw [if_neg h]
    exact .of_eq (count_ctr_other n s h)

theorem count_one_risesBy (c d : Counter) (s : State) : RisesBy c 1 s (count d 1 s) :=
  (count_risesBy c d 1 s).mono (by split <;> omega)

theorem readLine_risesBy (c : Counter) (a : Addr) (s : State) :
    RisesBy c (if c = .dmiss then 2 else 0) s (readLine a s) :=
  ((count_risesBy c .dmiss _ s).congr (readLine_ctr a s c)).mono (by split <;> simp [readCost_le])

theorem writeLine_risesBy (c : Counter) (a : Addr) (s : State) :
    RisesBy c (if c = .dmiss then 2 else 0) s (writeLine a s) :=
  ((count_risesBy c .dmiss _ s).congr (writeLine_ctr a s c)).mono
    (by split <;> simp [(writeCost_le _ _).trans one_le_two])

/-- The worst case is a spilling read: DMISS goes up by 2 in each of two lines (41_cache.md R128). -/
theorem dataAccess_risesBy (c : Counter) {line : Addr → State → State} (a : Addr) (s : State)
    (hline : ∀ b t, RisesBy c (if c = .dmiss then 2 else 0) t (line b t)) : RisesBy c 4 s (dataAccess line a s) := by
  have haccess := (count_risesBy c .dacc 1 s).trans (hline a _)
  have htail := haccess.trans (count_risesBy c .unal 1 _)
  have hspill := htail.trans (hline (spill a) _)
  unfold dataAccess
  rcases unalignedTail_cases a line (line a (count .dacc 1 s)) with ⟨_, e⟩ | ⟨_, _, e⟩ | ⟨_, _, e⟩ <;> rw [e]
  · exact haccess.mono (by cases c <;> decide)
  · exact htail.mono (by cases c <;> decide)
  · exact hspill.mono (by cases c <;> decide)

theorem fetchLine_risesBy (c : Counter) (a : Addr) (s : State) : RisesBy c 1 s (fetchLine a s) :=
  ((count_risesBy c .imiss _ s).congr (fetchLine_ctr a s c)).mono (by split <;> simp [fetchCost_le])

theorem check_risesBy (c : Counter) (s : State) : RisesBy c 1 s (check s) := by
  rcases Bool.eq_false_or_eq_true s.status.armed with ha | ha
  · rw [check_armed ha]
    exact ((count_risesBy c .haz _ s).congr (setArmed_ctr _ _ _)).mono (by split_ifs <;> decide)
  · rw [check_unarmed ha]
    exact (RisesBy.of_eq (raise_ctr _ _ _)).mono zero_le_one

theorem branchTaken_risesBy (c : Counter) (i : Nat) (tgt : Addr) (s : State) : RisesBy c 4 s (branchTaken i tgt s) :=
  RisesBy.congr ((((count_one_risesBy c _ s).trans (count_one_risesBy c _ _)).trans (count_one_risesBy c _ _)).trans
    (count_one_risesBy c _ _)) (branchTaken_ctr i tgt s c)

theorem branchNotTaken_risesBy (c : Counter) (i : Nat) (nt : Addr) (s : State) :
    RisesBy c 4 s (branchNotTaken i nt s) :=
  RisesBy.congr ((((count_one_risesBy c _ s).trans (count_one_risesBy c _ _)).trans (count_one_risesBy c _ _)).trans
    (count_one_risesBy c _ _)) (branchNotTaken_ctr i nt s c)

theorem effectOf_risesBy {i : Instr} (hi : i ≠ .reset) (c : Counter) (s : State) : RisesBy c 4 s (effectOf i s) := by
  cases i with
  | reset => exact absurd rfl hi
  | record d a b k => exact (RisesBy.of_eq (record_ctr d a b k s c)).mono (by decide)
  | check => exact (check_risesBy c s).mono (by decide)
  | dread a => exact dataAccess_risesBy c a s (readLine_risesBy c)
  | dwrite a => exact dataAccess_risesBy c a s (writeLine_risesBy c)
  | ifetch a => exact ((count_one_risesBy c .iacc s).trans (fetchLine_risesBy c a _)).mono (by decide)
  | btaken pc tgt => exact branchTaken_risesBy c _ tgt s
  | bntaken pc tgt => exact branchNotTaken_risesBy c _ _ s
  | rdctr | rdstat => exact (RisesBy.of_eq rfl).mono (by decide)

theorem exec_risesBy {i : Instr} {s t : State} (hi : i ≠ .reset) (e : exec i s = .next t) (c : Counter) :
    RisesBy c 4 s t := by
  rcases exec_acts_or_sameBlock e with rfl | h
  · exact effectOf_risesBy hi c (quiet s)
  · exact (RisesBy.of_eq (h.ctr c)).mono (by decide)

/-- Settles O21: a step waits, refuses a word or runs a command, and only the last raises a counter. -/
theorem countersOnlyGoUp : Obligations.CountersOnlyGoUp := by
  intro s t c hroom e hrst hreset
  suffices h : RisesBy c 4 s t from h.bounds (hroom c)
  rcases step_cases e with ⟨_, rfl⟩ | ⟨l, hl, _⟩ | ⟨w, l, _, _, rfl⟩ | ⟨w, l, _, _, rfl⟩ | ⟨w, l, i, hl, hd, hex⟩
  · exact (RisesBy.of_eq rfl).mono (by decide)
  · exact absurd hl (hrst l)
  · exact (RisesBy.of_eq rfl).mono (by decide)
  · exact (RisesBy.of_eq rfl).mono (by decide)
  · have hi : i ≠ .reset := fun hi => hreset w l hl (hi ▸ hd)
    exact exec_risesBy hi hex c

/-! ## The elements a command writes -/

/-- No command but RESET touches an element of a component it is no operation of (20_memory.md R66). -/
theorem effectOf_other_elements {i : Instr} {k : Component} (hi : i ≠ .reset) (hk : componentOf i ≠ some k)
    (s : State) : SameElements k s (effectOf i s) := by
  cases i with
  | reset => exact absurd rfl hi
  | record | check =>
    cases k with
    | hazardTracker => exact absurd rfl hk
    | dataCache | instructionCache | branchPredictors => simp [SameElements, effectOf]
  | dread | dwrite =>
    cases k with
    | dataCache => exact absurd rfl hk
    | hazardTracker | instructionCache | branchPredictors => simp [SameElements, effectOf]
  | ifetch =>
    cases k with
    | instructionCache => exact absurd rfl hk
    | hazardTracker | dataCache | branchPredictors => simp [SameElements, effectOf]
  | btaken | bntaken =>
    cases k with
    | branchPredictors => exact absurd rfl hk
    | hazardTracker | dataCache | instructionCache => simp [SameElements, effectOf]
  | rdctr | rdstat => exact (sameIn_refl k s).1

theorem exec_other_elements {i : Instr} {k : Component} {s t : State} (e : exec i s = .next t) (hi : i ≠ .reset)
    (hk : componentOf i ≠ some k) : SameElements k s t := by
  rcases exec_acts_or_sameBlock e with rfl | h
  · exact effectOf_other_elements hi hk (quiet s)
  · exact h.elements k

theorem record_ready (d a b : RegSlot) (k : Kind) (s : State) :
    (record d a b k s).status.ready = s.status.ready := by
  unfold record; split <;> simp

theorem check_ready (s : State) : (check s).status.ready = s.status.ready := by
  unfold check; split <;> [simp; split <;> simp]

theorem exec_ready {i : Instr} {s t : State} (e : exec i s = .next t) (hi : i ≠ .reset) :
    t.status.ready = s.status.ready := by
  rcases exec_acts_or_sameBlock e with rfl | h
  · cases i with
    | reset => exact absurd rfl hi
    | record | check | dread | dwrite | ifetch | btaken | bntaken | rdctr | rdstat =>
      simp [effectOf, record_ready, check_ready]
  · exact h.ready

/-- CHECK reads the contexts and does not write them (40_hazard.md R111). -/
theorem exec_check_contexts {s t : State} (e : exec .check s = .next t) : t.cur = s.cur ∧ t.prev = s.prev := by
  rcases exec_acts_or_sameBlock e with rfl | h
  · simp [effectOf]
  · obtain ⟨hcur, hprev, _⟩ := h.elements .hazardTracker
    exact ⟨hcur.symm, hprev.symm⟩

/-- BNTAKEN leaves the always-taken targets (42_branch.md R143). -/
theorem exec_bntaken_targets {pc tgt : Addr} {s t : State} (e : exec (.bntaken pc tgt) s = .next t) :
    t.atTgt = s.atTgt := by
  rcases exec_acts_or_sameBlock e with rfl | h
  · simp [effectOf]
  · obtain ⟨hat, _⟩ := h.elements .branchPredictors
    exact hat.symm

/-! ### The commands of each component -/

theorem eq_of_component_hazardTracker {i : Instr} (h : componentOf i = some .hazardTracker) :
    (∃ d a b k, i = .record d a b k) ∨ i = .check := by
  cases i <;> simp_all [componentOf]

theorem eq_of_component_dataCache {i : Instr} (h : componentOf i = some .dataCache) :
    (∃ a, i = .dread a) ∨ ∃ a, i = .dwrite a := by
  cases i <;> simp_all [componentOf]

theorem eq_of_component_instructionCache {i : Instr} (h : componentOf i = some .instructionCache) :
    ∃ a, i = .ifetch a := by
  cases i <;> simp_all [componentOf]

theorem eq_of_component_branchPredictors {i : Instr} (h : componentOf i = some .branchPredictors) :
    (∃ p x, i = .btaken p x) ∨ ∃ p x, i = .bntaken p x := by
  cases i <;> simp_all [componentOf]

/-- Settles O23: a command leaves the other components alone, CHECK the contexts, BNTAKEN the targets, and all but
RESET the ready bit. -/
theorem elementsAreWrittenOnlyByTheirCommands : Obligations.ElementsAreWrittenOnlyByTheirCommands := by
  intro i s t e hi
  have other {k : Component} (hk : componentOf i ≠ some k) : SameElements k s t := exec_other_elements e hi hk
  refine ⟨fun hrec => ?contexts, fun hread hwrite => ?dataLines, fun hfetch => ?fetchLines, fun htaken => ?targets,
    fun htaken hnot => ?tables, fun hrec hcheck => ?armed, exec_ready e hi⟩
  case contexts =>
    by_cases hk : componentOf i = some .hazardTracker
    · rcases eq_of_component_hazardTracker hk with ⟨d, a, b, k, rfl⟩ | rfl
      · exact absurd rfl (hrec d a b k)
      · exact exec_check_contexts e
    · obtain ⟨hcur, hprev, _⟩ := other hk
      exact ⟨hcur.symm, hprev.symm⟩
  case dataLines =>
    refine (other (k := .dataCache) fun hk => ?_).symm
    rcases eq_of_component_dataCache hk with ⟨a, rfl⟩ | ⟨a, rfl⟩
    · exact hread a rfl
    · exact hwrite a rfl
  case fetchLines =>
    refine (other (k := .instructionCache) fun hk => ?_).symm
    obtain ⟨a, rfl⟩ := eq_of_component_instructionCache hk
    exact hfetch a rfl
  case targets =>
    by_cases hk : componentOf i = some .branchPredictors
    · rcases eq_of_component_branchPredictors hk with ⟨p, x, rfl⟩ | ⟨p, x, rfl⟩
      · exact absurd rfl (htaken p x)
      · exact exec_bntaken_targets e
    · obtain ⟨hat, _⟩ := other hk
      exact hat.symm
  case tables =>
    obtain ⟨_, hb1, hb2⟩ := other (k := .branchPredictors) fun hk => by
      rcases eq_of_component_branchPredictors hk with ⟨p, x, rfl⟩ | ⟨p, x, rfl⟩
      · exact htaken p x rfl
      · exact hnot p x rfl
    exact ⟨hb1.symm, hb2.symm⟩
  case armed =>
    obtain ⟨_, _, harmed⟩ := other (k := .hazardTracker) fun hk => by
      rcases eq_of_component_hazardTracker hk with ⟨d, a, b, k, rfl⟩ | rfl
      · exact hrec d a b k rfl
      · exact hcheck rfl
    exact harmed.symm

end Sys2Proof.Machine
end

section
/-! PROOFS. Addresses as lines of memory and words in them (20_memory.md R52 to R58), and what RESET erases (R64). -/

namespace Sys2Proof.Machine

/-! ## The sizes of a well-formed geometry -/

/-- A line is its words of 4 bytes (00_scope.md R8). -/
theorem lineBytes_eq_four_mul {g : Geometry} (h : geometryOk g = true) : g.lineBytes = 4 * lineWords g := by
  obtain ⟨_, hl, _, _⟩ := geometryOk_iff.mp h
  have h2 := geometryOk_offBits h
  rw [lineWords_eq h, hl, ← Nat.pow_add 2 2]
  congr 1
  omega

theorem lineWords_pos {g : Geometry} (h : geometryOk g = true) : 0 < lineWords g := by
  rw [lineWords_eq h]
  exact Nat.two_pow_pos _

theorem lineBytes_pos {g : Geometry} (h : geometryOk g = true) : 0 < g.lineBytes := by
  have := lineWords_pos h
  have := lineBytes_eq_four_mul h
  omega

/-- The three widths fill an address (00_scope.md R8, 20_memory.md R52). -/
theorem lineBytes_mul_lines {g : Geometry} (h : geometryOk g = true) :
    g.lineBytes * (g.rows * 2 ^ tagBits g) = 2 ^ 32 := by
  obtain ⟨hr, hl, _, hb⟩ := geometryOk_iff.mp h
  rw [hr, hl, ← Nat.pow_add, ← Nat.pow_add]
  congr 1
  unfold tagBits
  omega

/-! ## The line of memory an address lies in, as one number -/

/-- `a >> X_OFF_BITS`: the number of the line of memory that an address lies in (20_memory.md R54). -/
def lineOf (g : Geometry) (a : Addr) : Nat := (a >>> offBits g).toNat

theorem lineOf_eq_div_two_pow (g : Geometry) (a : Addr) : lineOf g a = a.toNat / 2 ^ offBits g := by
  rw [lineOf, BitVec.toNat_ushiftRight, Nat.shiftRight_eq_div_pow]

theorem lineOf_eq {g : Geometry} (h : geometryOk g = true) (a : Addr) : lineOf g a = a.toNat / g.lineBytes := by
  obtain ⟨_, hl, _, _⟩ := geometryOk_iff.mp h
  rw [lineOf_eq_div_two_pow, ← hl]

/-- The row is the low part of the line number (20_memory.md R53). -/
theorem rowOf_eq_lineOf_mod {g : Geometry} (h : geometryOk g = true) (a : Addr) :
    rowOf g a = lineOf g a % g.rows := by
  rw [rowOf_eq h, lineOf_eq_div_two_pow]

/-- The tag is the high part of the line number (20_memory.md R54). -/
theorem tagOf_eq_lineOf_div {g : Geometry} (h : geometryOk g = true) (a : Addr) :
    (tagOf g a).toNat = lineOf g a / g.rows := by
  obtain ⟨hr, _, _, _⟩ := geometryOk_iff.mp h
  rw [tagOf_toNat, lineOf_eq_div_two_pow, ← hr]

/-- The line number is the tag and the row, side by side. -/
theorem lineOf_eq_tag_row {g : Geometry} (h : geometryOk g = true) (a : Addr) :
    lineOf g a = (tagOf g a).toNat * g.rows + rowOf g a := by
  rw [tagOf_eq_lineOf_div h, rowOf_eq_lineOf_mod h, Nat.div_add_mod']

/-- The offset in line is the word in line and the byte in word, side by side (20_memory.md R52, R55). -/
theorem offset_eq_word_byte {g : Geometry} (h : geometryOk g = true) (a : Addr) :
    a.toNat % g.lineBytes = wordOf g a * 4 + a.toNat % 4 := by
  rw [lineBytes_eq_four_mul h, Nat.mod_mul, wordOf_eq h, Nat.mul_comm 4, Nat.add_comm]

theorem wordOf_lt {g : Geometry} (h : geometryOk g = true) (a : Addr) : wordOf g a < lineWords g := by
  rw [wordOf_eq h]
  exact Nat.mod_lt _ (lineWords_pos h)

theorem lineOf_inj_iff (g : Geometry) (a b : Addr) :
    lineOf g a = lineOf g b ↔ a >>> offBits g = b >>> offBits g := BitVec.toNat_inj

/-- Settles O29: an address is its line number and its offset in line, and each of the two is cut once more. -/
theorem addressIsItsFields : Obligations.AddressIsItsFields := by
  intro g a h
  refine ⟨?_, tagOf_lt h a, rowOf_lt h a, wordOf_lt h a⟩
  obtain ⟨hr, hl, _, _⟩ := geometryOk_iff.mp h
  calc a.toNat
      = lineOf g a * g.lineBytes + a.toNat % g.lineBytes := by rw [lineOf_eq h, Nat.div_add_mod']
    _ = ((tagOf g a).toNat * g.rows + rowOf g a) * g.lineBytes + (wordOf g a * 4 + a.toNat % 4) := by
        rw [← lineOf_eq_tag_row h, offset_eq_word_byte h]
    _ = (tagOf g a).toNat * 2 ^ (offBits g + rowBits g) + rowOf g a * 2 ^ offBits g + wordOf g a * 4
          + a.toNat % 4 := by
        rw [hr, hl, Nat.pow_add]
        ring

/-- Settles O30: tag and row are the quotient and the remainder of the line number by the row count. -/
theorem sameLineIsSameTagAndRow : Obligations.SameLineIsSameTagAndRow := by
  intro g a b h
  rw [← lineOf_inj_iff]
  constructor
  · rintro ⟨htag, hrow⟩
    rw [lineOf_eq_tag_row h, lineOf_eq_tag_row h, htag, hrow]
  · intro hline
    refine ⟨BitVec.eq_of_toNat_eq ?_, ?_⟩
    · rw [tagOf_eq_lineOf_div h, tagOf_eq_lineOf_div h, hline]
    · rw [rowOf_eq_lineOf_mod h, rowOf_eq_lineOf_mod h, hline]

/-! ## The spill address -/

theorem spill_aligned (a : Addr) : (spill a).toNat % 4 = 0 := by
  rw [spill_toNat]
  omega

/-- The spill address from the last word of a line is where the next line of memory starts (20_memory.md R56). -/
theorem spill_toNat_of_lastWord {g : Geometry} (h : geometryOk g = true) {a : Addr}
    (hw : wordOf g a = lineWords g - 1) :
    (spill a).toNat = g.lineBytes * ((lineOf g a + 1) % (g.rows * 2 ^ tagBits g)) := by
  have hbytes := lineBytes_eq_four_mul h
  have hpos := lineWords_pos h
  have hnext : a.toNat / 4 * 4 + 4 = g.lineBytes * (lineOf g a + 1) := by
    have hcut := Nat.div_add_mod a.toNat g.lineBytes
    rw [offset_eq_word_byte h, hw, ← lineOf_eq h] at hcut
    rw [Nat.mul_add]
    omega
  rw [spill_toNat, hnext, ← lineBytes_mul_lines h, Nat.mul_mod_mul_left]

theorem spill_line_start {g : Geometry} (h : geometryOk g = true) {a : Addr} (hw : wordOf g a = lineWords g - 1) :
    (spill a).toNat % g.lineBytes = 0 := by
  rw [spill_toNat_of_lastWord h hw, Nat.mul_mod_right]

theorem lineOf_spill {g : Geometry} (h : geometryOk g = true) {a : Addr} (hw : wordOf g a = lineWords g - 1) :
    lineOf g (spill a) = (lineOf g a + 1) % (g.rows * 2 ^ tagBits g) := by
  rw [lineOf_eq h (spill a), spill_toNat_of_lastWord h hw, Nat.mul_div_cancel_left _ (lineBytes_pos h)]

theorem rowOf_spill {g : Geometry} (h : geometryOk g = true) {a : Addr} (hw : wordOf g a = lineWords g - 1) :
    rowOf g (spill a) = (rowOf g a + 1) % g.rows := by
  rw [rowOf_eq_lineOf_mod h, lineOf_spill h hw, Nat.mod_mul_right_mod, rowOf_eq_lineOf_mod h, Nat.mod_add_mod]

/-- The next line's number carries into the tag exactly when the row wraps. -/
theorem succ_lineOf_div_rows {g : Geometry} (h : geometryOk g = true) (a : Addr) :
    (lineOf g a + 1) / g.rows =
      if rowOf g a + 1 = g.rows then (tagOf g a).toNat + 1 else (tagOf g a).toNat := by
  have hlt := rowOf_lt h a
  rw [lineOf_eq_tag_row h, Nat.add_assoc, Nat.mul_comm, Nat.mul_add_div (geometryOk_rows_pos h)]
  split
  · next hwrap => rw [hwrap, Nat.div_self (geometryOk_rows_pos h)]
  · next hstay => rw [Nat.div_eq_of_lt (by omega), Nat.add_zero]

theorem tagOf_spill {g : Geometry} (h : geometryOk g = true) {a : Addr} (hw : wordOf g a = lineWords g - 1) :
    (tagOf g (spill a)).toNat =
      if rowOf g a + 1 = g.rows then ((tagOf g a).toNat + 1) % 2 ^ tagBits g else (tagOf g a).toNat := by
  rw [tagOf_eq_lineOf_div h, lineOf_spill h hw, Nat.mod_mul_right_div_self, succ_lineOf_div_rows h]
  split
  · rfl
  · exact Nat.mod_eq_of_lt (tagOf_lt h a)

/-- Settles O31: from the last word of a line the spill address is the start of the line numbered one higher. -/
theorem spillIsTheNextLine : Obligations.SpillIsTheNextLine := by
  intro g a h _
  refine ⟨?_, spill_aligned a, fun hw => ⟨spill_line_start h hw, rowOf_spill h hw, tagOf_spill h hw⟩⟩
  rw [spill_toNat]
  congr 1
  omega

/-! ## The predictor index -/

/-- The index's bits are the pc's bits `K+1 : 2` (20_memory.md R58). -/
theorem testBit_predictorIndex {k : Nat} (h : k ≤ 30) (pc : Addr) (i : Nat) :
    (predictorIndex k pc).testBit i = (decide (i < k) && pc.getLsbD (i + 2)) := by
  rw [predictorIndex_eq h, Nat.testBit_mod_two_pow, show (4 : Nat) = 2 ^ 2 by decide, Nat.testBit_div_two_pow,
    BitVec.testBit_toNat]

theorem predictorIndex_eq_iff {k : Nat} (h : k ≤ 30) (p q : Addr) :
    predictorIndex k p = predictorIndex k q ↔ ∀ j, 2 ≤ j → j < k + 2 → p.getLsbD j = q.getLsbD j := by
  constructor
  · intro he j h2 hj
    obtain ⟨i, rfl⟩ := Nat.exists_eq_add_of_le' h2
    have hbit := congrArg (Nat.testBit · i) he
    simpa [testBit_predictorIndex h, show i < k by omega] using hbit
  · intro hbits
    refine Nat.eq_of_testBit_eq fun i => ?_
    rw [testBit_predictorIndex h, testBit_predictorIndex h]
    by_cases hi : i < k
    · rw [hbits (i + 2) (by omega) (by omega)]
    · simp [hi]

/-- Settles O32, by the bits of the index. -/
theorem indexIsTheMiddleBits : Obligations.IndexIsTheMiddleBits := fun _ p q h =>
  ⟨predictorIndex_eq h p, predictorIndex_lt h p, predictorIndex_eq_iff h p q⟩

/-! ## RESET erases history -/

/-- A step at a word that decodes is the command it decodes to, with the word taken off the inputs
(60_exceptions.md R176). -/
theorem step_of_decode {s : State} {w : CmdWord} {l : List Input} {i : Instr} (hs : s.inputs = .cmd w :: l)
    (hw : decode w = .cmd i) : step s = exec i { s with inputs := l } := by
  rw [step_cmd hs, acceptWord, hw]

/-- What a step at a RESET word leaves: of the state before it, only the model's own fields (43_control.md R160;
logs 9, 19). -/
theorem step_reset_word {s : State} {w : CmdWord} {l : List Input} (hs : s.inputs = .cmd w :: l)
    (hw : decode w = .cmd .reset) :
    step s = .next { State.afterReset s.cfg with draws := s.draws, inputs := l } := by
  rw [step_of_decode hs hw, exec_reset, initialise_eq]
  rfl

/-- Settles O54: the first step already leaves both blocks in one state, and a run is a function of its state. -/
theorem resetErasesHistory : Obligations.ResetErasesHistory := by
  intro s u w rest n hw hs hu hcfg hdraws
  have hstep : step u = .next { State.afterReset s.cfg with draws := s.draws, inputs := rest } := by
    rw [step_reset_word hu hw, hcfg, hdraws]
  rw [run_succ n (step_reset_word hs hw), run_succ n hstep]

end Sys2Proof.Machine
end

section
/-! PROOFS. The command encoding (30_encoding.md R83 to R92): both round trips, and the list of illegal words. -/

namespace Sys2Proof

/-! ## The operands that the opcode selects -/

/-- The opcode map (30_encoding.md R84), row by row: what the operands of a word are under each opcode. -/
inductive OpcodeRow (w : CmdWord) : Option (Option Instr) → Prop
  | reset (hop : opField w = 0x1#4) : OpcodeRow w (some (operandsZ w .reset))
  | record (hop : opField w = 0x2#4) : OpcodeRow w (some (operandsR w))
  | check (hop : opField w = 0x3#4) : OpcodeRow w (some (operandsZ w .check))
  | dread (hop : opField w = 0x4#4) : OpcodeRow w (some (operandsA w .dread))
  | dwrite (hop : opField w = 0x5#4) : OpcodeRow w (some (operandsA w .dwrite))
  | ifetch (hop : opField w = 0x6#4) : OpcodeRow w (some (operandsA w .ifetch))
  | btaken (hop : opField w = 0x7#4) : OpcodeRow w (some (operandsP w .btaken))
  | bntaken (hop : opField w = 0x8#4) : OpcodeRow w (some (operandsP w .bntaken))
  | rdctr (hop : opField w = 0x9#4) : OpcodeRow w (some (operandsC w))
  | rdstat (hop : opField w = 0xA#4) : OpcodeRow w (some (operandsZ w .rdstat))
  | reserved (hop : opField w = 0x0#4 ∨ 0xB#4 ≤ opField w) : OpcodeRow w none

theorem opcode_reserved_of_not_listed : ∀ v : BitVec 4, v ≠ 0x1#4 → v ≠ 0x2#4 → v ≠ 0x3#4 → v ≠ 0x4#4 → v ≠ 0x5#4 →
    v ≠ 0x6#4 → v ≠ 0x7#4 → v ≠ 0x8#4 → v ≠ 0x9#4 → v ≠ 0xA#4 → v = 0x0#4 ∨ 0xB#4 ≤ v := by decide

theorem operandsOf_row (w : CmdWord) : OpcodeRow w (operandsOf w) :=
  iteInduction .reset fun h1 => iteInduction .record fun h2 => iteInduction .check fun h3 =>
    iteInduction .dread fun h4 => iteInduction .dwrite fun h5 => iteInduction .ifetch fun h6 =>
      iteInduction .btaken fun h7 => iteInduction .bntaken fun h8 => iteInduction .rdctr fun h9 =>
        iteInduction .rdstat fun hA =>
          .reserved (opcode_reserved_of_not_listed _ h1 h2 h3 h4 h5 h6 h7 h8 h9 hA)

theorem decode_eq_cmd_iff {w : CmdWord} {i : Instr} : decode w = .cmd i ↔ operandsOf w = some (some i) := by
  unfold decode
  split <;> simp_all

theorem decode_eq_illegalOpcode_iff {w : CmdWord} : decode w = .illegalOpcode ↔ operandsOf w = none := by
  unfold decode
  split <;> simp_all

theorem decode_eq_illegalOperand_iff {w : CmdWord} : decode w = .illegalOperand ↔ operandsOf w = some none := by
  unfold decode
  split <;> simp_all

/-! ## Every command's word decodes to it -/

theorem operandsOf_encode {i : Instr} (h : i.wellFormed = true) : operandsOf (encode i) = some (some i) := by
  cases i with
  | reset | check | rdstat => simp [operandsOf, operandsZ, Instr.opcode, Instr.operandA, Instr.operandB]
  | record d a b k =>
    simp [operandsOf, operandsR, Instr.opcode, operandA_record, decodeKind_encodeKind h, Instr.operandB]
  | dread | dwrite | ifetch => simp [operandsOf, operandsA, Instr.opcode, Instr.operandA, Instr.operandB]
  | btaken | bntaken => simp [operandsOf, operandsP, Instr.opcode, Instr.operandA, Instr.operandB]
  | rdctr c => simp [operandsOf, operandsC, Instr.opcode, operandA_rdctr, Instr.operandB]

/-- Settles O2: the opcode selects the command's own format, and each field of that format gives its operand back. -/
theorem decodeOfEncodeIsTheCommand : Obligations.DecodeOfEncodeIsTheCommand := fun _ h =>
  decode_eq_cmd_iff.mpr (operandsOf_encode h)

/-! ## A word that decodes is its command's word -/

theorem encode_eq_of_fields {i : Instr} {w : CmdWord} (hop : opField w = i.opcode) (ha : fieldA w = i.operandA)
    (hb : fieldB w = i.operandB) : encode i = w := by
  rw [encode, ← hop, ← ha, ← hb, cmdWord_fields]

theorem operandsZ_eq_some {w : CmdWord} {i j : Instr} (h : operandsZ w i = some j) :
    i = j ∧ fieldA w = 0#32 ∧ fieldB w = 0#32 := by
  simpa [operandsZ, and_comm] using h

theorem operandsA_eq_some {w : CmdWord} {mk : Addr → Instr} {j : Instr} (h : operandsA w mk = some j) :
    mk (fieldA w) = j ∧ fieldB w = 0#32 := by
  simpa [operandsA, and_comm] using h

theorem operandsR_eq_some {w : CmdWord} {j : Instr} (h : operandsR w = some j) :
    ∃ d a b k, .record d a b k = j ∧ k.recordable = true ∧ fieldA w = (Instr.record d a b k).operandA ∧
      fieldB w = 0#32 := by
  unfold operandsR at h
  split at h
  · next hz =>
    obtain ⟨hA, hB⟩ := hz
    split at h
    · next k d a b hk hd ha hb =>
      injection h with h
      obtain ⟨hk, hrec⟩ := encodeKind_of_decodeKind hk
      refine ⟨d, a, b, k, h, hrec, ?_, hB⟩
      rw [operandA_record, hk, encodeSlot_of_decodeSlot hd, encodeSlot_of_decodeSlot ha, encodeSlot_of_decodeSlot hb,
        recordField_parts hA]
    · cases h
  · cases h

theorem operandsC_eq_some {w : CmdWord} {j : Instr} (h : operandsC w = some j) :
    ∃ c, .rdctr c = j ∧ fieldA w = (Instr.rdctr c).operandA ∧ fieldB w = 0#32 := by
  unfold operandsC at h
  split at h
  · next hz =>
    obtain ⟨hA, hB⟩ := hz
    obtain ⟨c, hc, hj⟩ := Option.map_eq_some_iff.mp h
    exact ⟨c, hj, by rw [operandA_rdctr, code_of_decodeSel hc, selectorField_parts hA], hB⟩
  · cases h

/-- Settles O3: each format determines the three fields of the word from the command it gives. -/
theorem encodeOfDecodeIsTheWord : Obligations.EncodeOfDecodeIsTheWord := by
  intro w i h
  have row := operandsOf_row w
  rw [decode_eq_cmd_iff] at h
  generalize operandsOf w = o at h row
  cases row with
  | reset hop | check hop | rdstat hop =>
    injection h with h
    obtain ⟨rfl, hA, hB⟩ := operandsZ_eq_some h
    exact ⟨rfl, encode_eq_of_fields hop hA hB⟩
  | dread hop | dwrite hop | ifetch hop =>
    injection h with h
    obtain ⟨rfl, hB⟩ := operandsA_eq_some h
    exact ⟨rfl, encode_eq_of_fields hop rfl hB⟩
  | btaken hop | bntaken hop =>
    injection h with h
    injection h with h
    subst h
    exact ⟨rfl, encode_eq_of_fields hop rfl rfl⟩
  | record hop =>
    injection h with h
    obtain ⟨d, a, b, k, rfl, hk, hA, hB⟩ := operandsR_eq_some h
    exact ⟨hk, encode_eq_of_fields hop hA hB⟩
  | rdctr hop =>
    injection h with h
    obtain ⟨c, rfl, hA, hB⟩ := operandsC_eq_some h
    exact ⟨rfl, encode_eq_of_fields hop hA hB⟩
  | reserved => cases h

/-! ## The illegal words -/

/-- A part of the field `A`, by the bits of the word. -/
theorem fieldA_extractLsb' (w : CmdWord) {j l : Nat} (h : j + l ≤ 32) :
    (fieldA w).extractLsb' j l = w.extractLsb' (32 + j) l := by
  refine BitVec.eq_of_getLsbD_eq fun i hi => ?_
  simp [fieldA, hi, show j + i < 32 by omega, Nat.add_assoc]

theorem decodeSlot_eq_none_iff {v : BitVec 6} : decodeSlot v = none ↔ v ≠ 0#6 ∧ v < 32#6 := by
  revert v; decide

theorem decodeKind_eq_none_iff {v : BitVec 2} : decodeKind v = none ↔ v = 0b00#2 ∨ v = 0b11#2 := by
  revert v; decide

theorem decodeSel_eq_none_iff {v : BitVec 4} : decodeSel v = none ↔ v = 14#4 ∨ v = 15#4 := by
  revert v; decide

theorem operandsZ_eq_none_iff {w : CmdWord} {i : Instr} :
    operandsZ w i = none ↔ fieldA w ≠ 0#32 ∨ fieldB w ≠ 0#32 := by
  rw [operandsZ, ite_eq_right_iff, ← not_and_or]
  simp

theorem operandsA_eq_none_iff {w : CmdWord} {mk : Addr → Instr} : operandsA w mk = none ↔ fieldB w ≠ 0#32 := by
  simp [operandsA]

theorem operandsC_eq_none_iff {w : CmdWord} :
    operandsC w = none ↔ (fieldA w).extractLsb' 4 28 ≠ 0#28 ∨ fieldB w ≠ 0#32 ∨
      decodeSel ((fieldA w).extractLsb' 0 4) = none := by
  rw [operandsC, ite_eq_right_iff, Option.map_eq_none_iff, and_imp, imp_iff_not_or, imp_iff_not_or]

theorem operandsR_eq_none_iff {w : CmdWord} :
    operandsR w = none ↔ (fieldA w).extractLsb' 20 12 ≠ 0#12 ∨ fieldB w ≠ 0#32 ∨
      decodeKind ((fieldA w).extractLsb' 18 2) = none ∨ decodeSlot ((fieldA w).extractLsb' 12 6) = none ∨
      decodeSlot ((fieldA w).extractLsb' 6 6) = none ∨ decodeSlot ((fieldA w).extractLsb' 0 6) = none := by
  rw [operandsR, ite_eq_right_iff, and_imp, imp_iff_not_or, imp_iff_not_or]
  refine or_congr_right (or_congr_right ?_)
  split
  · simp [*]
  · next hnot =>
    refine iff_of_true rfl ?_
    by_contra hsome
    simp only [not_or, ← ne_eq, Option.ne_none_iff_exists'] at hsome
    obtain ⟨⟨k, hk⟩, ⟨d, hd⟩, ⟨a, ha⟩, b, hb⟩ := hsome
    exact hnot k d a b hk hd ha hb

/-- Settles O4: under each row of the opcode map the operands are refused exactly for the bits listed for its format. -/
theorem illegalWordsAreExactlyTheListed : Obligations.IllegalWordsAreExactlyTheListed := by
  intro w
  have hop : w.extractLsb' 64 4 = opField w := rfl
  have hA : w.extractLsb' 32 32 = fieldA w := rfl
  have hB : w.extractLsb' 0 32 = fieldB w := rfl
  rw [decode_eq_illegalOpcode_iff, decode_eq_illegalOperand_iff, hop, hA, hB]
  have row := operandsOf_row w
  generalize operandsOf w = o at row
  cases row with
  | reset hop | check hop | rdstat hop => simp [hop, operandsZ_eq_none_iff]
  | dread hop | dwrite hop | ifetch hop => simp [hop, operandsA_eq_none_iff]
  | btaken hop | bntaken hop => simp [hop, operandsP]
  | record hop =>
    simp [hop, operandsR_eq_none_iff, fieldA_extractLsb', decodeKind_eq_none_iff, decodeSlot_eq_none_iff, or_assoc]
  | rdctr hop => simp [hop, operandsC_eq_none_iff, fieldA_extractLsb', decodeSel_eq_none_iff]
  | reserved hop =>
    refine ⟨iff_of_true rfl hop, iff_of_false (by simp) ?_⟩
    rcases hop with hop | hop
    · simp [hop]
    · rintro (⟨h | h | h, _⟩ | ⟨h, _⟩ | ⟨h | h | h, _⟩ | ⟨h, _⟩) <;> simp [h] at hop

/-- Settles O1, by running the decoder on the eight words. -/
theorem workedWordsDecode : Obligations.WorkedWordsDecode := by
  unfold Obligations.WorkedWordsDecode
  decide

end Sys2Proof
end

section
/-! PROOFS. Command streams: the host's translation (30_encoding.md R95), the report (R94), and the RECORD term that no
word encodes (R87). -/

namespace Sys2Proof.Machine

/-! ## Streams as they are presented -/

@[simp] theorem presented_cons (i : Instr) (l : List Instr) :
    presented (i :: l) = .cmd (encode i) :: presented l := rfl

@[simp] theorem presented_append (l m : List Instr) : presented (l ++ m) = presented l ++ presented m :=
  List.map_append

/-- A step at the word of a well-formed command runs that command. -/
theorem step_encode {s : State} {i : Instr} {l : List Input} (hi : i.wellFormed = true)
    (hs : s.inputs = .cmd (encode i) :: l) : step s = exec i { s with inputs := l } :=
  step_of_decode hs (decodeOfEncodeIsTheCommand i hi)

/-! ## Pairing -/

/-- The pairing looks at the commands of the HazardTracker and at RESET only (70_reset_and_hazards.md R198). -/
theorem paired_cons_other {i : Instr} (hr : i ≠ .reset) (hk : componentOf i ≠ some .hazardTracker) (b : Bool)
    (l : List Instr) : paired b (i :: l) = paired b l := by
  cases i with
  | reset => exact absurd rfl hr
  | record | check => exact absurd rfl hk
  | dread | dwrite | ifetch | btaken | bntaken | rdctr | rdstat => rfl

theorem paired_append_others {l : List Instr}
    (hl : ∀ i ∈ l, i ≠ .reset ∧ componentOf i ≠ some .hazardTracker) (b : Bool) (m : List Instr) :
    paired b (l ++ m) = paired b m := by
  induction l with
  | nil => rfl
  | cons i l ih =>
    obtain ⟨⟨hr, hk⟩, hl⟩ := List.forall_mem_cons.mp hl
    exact (paired_cons_other hr hk b _).trans (ih hl)

theorem paired_retire_append (d a b : RegSlot) {k : Kind} (hk : k.recordable = true) (l : List Instr) :
    paired false (retire d a b k ++ l) = paired false l := by
  simp [retire, paired, hk]

theorem memoryCommand_component (m : MemoryAccess) : componentOf (memoryCommand m) = some .dataCache := by
  cases m <;> rfl

theorem branchCommand_component (pc : Addr) (o : BranchOutcome) :
    componentOf (branchCommand pc o) = some .branchPredictors := by
  cases o <;> rfl

theorem ne_reset_of_component {i : Instr} {k : Component} (h : componentOf i = some k) : i ≠ .reset := by
  rintro rfl
  cases h

/-- One host instruction's commands begin and end with no RECORD pending. -/
theorem paired_hostCommands_append {h : HostInstr} (hk : h.kind.recordable = true) (l : List Instr) :
    paired false (hostCommands h ++ l) = paired false l := by
  have hmemory : ∀ i ∈ h.memory.map memoryCommand, i ≠ .reset ∧ componentOf i ≠ some .hazardTracker := by
    intro i hi
    obtain ⟨m, _, rfl⟩ := List.mem_map.mp hi
    have hm := memoryCommand_component m
    exact ⟨ne_reset_of_component hm, by simp [hm]⟩
  have hbranch : ∀ i ∈ (h.branch.map (branchCommand h.pc)).toList,
      i ≠ .reset ∧ componentOf i ≠ some .hazardTracker := by
    intro i hi
    obtain ⟨o, _, rfl⟩ := Option.map_eq_some_iff.mp (Option.mem_toList.mp hi)
    have ho := branchCommand_component h.pc o
    exact ⟨ne_reset_of_component ho, by simp [ho]⟩
  rw [hostCommands, List.append_assoc, List.append_assoc, List.append_assoc, List.singleton_append,
    paired_cons_other (by simp) (by simp [componentOf]), paired_retire_append _ _ _ hk,
    paired_append_others hmemory, paired_append_others hbranch]

/-- Settles O20, by induction on the host's instructions: each leaves no RECORD pending. -/
theorem hostTranslationIsPaired : Obligations.HostTranslationIsPaired := by
  intro l hl
  induction l with
  | nil => rfl
  | cons h l ih =>
    obtain ⟨hk, hl⟩ := List.forall_mem_cons.mp hl
    rw [List.flatMap_cons, paired_hostCommands_append hk]
    exact ih hl

/-! ## The report -/

/-- The report up to a counter's command: as many commands as the counter's selector says (30_encoding.md R88). -/
theorem report_split (c : Counter) :
    ∃ (before : List Counter) (after : List Instr),
      report = before.map .rdctr ++ .rdctr c :: after ∧ before.length = c.code.toNat :=
  ⟨Counter.all.take c.code.toNat, report.drop (c.code.toNat + 1), by cases c <;> rfl, by cases c <;> rfl⟩

theorem step_rdctr_word {s : State} {c : Counter} {l : List Input} (hr : s.status.ready = true)
    (hs : s.inputs = .cmd (encode (.rdctr c)) :: l) :
    step s = .next { s with rsp := some (s.ctr c), inputs := l } := by
  rw [step_encode rfl hs, exec_rdctr, if_neg (by simp [hr])]
  rfl

theorem step_rdstat_word {s : State} {l : List Input} (hs : s.inputs = .cmd (encode .rdstat) :: l) :
    step s = .next { s with rsp := some (Status.response s.status), inputs := l } := by
  rw [step_encode rfl hs, exec_rdstat]
  rfl

/-- A run over RDCTRs goes on as one that never met them, but for the response port. -/
theorem run_rdctrs (cs : List Counter) {s : State} {l : List Input} (n : Nat) (hr : s.status.ready = true)
    (hs : s.inputs = presented (cs.map .rdctr) ++ l) :
    ∃ rsp, Sys2Proof.core.run (cs.length + n) s = Sys2Proof.core.run n { s with rsp := rsp, inputs := l } := by
  induction cs generalizing s with
  | nil =>
    have hl : s.inputs = l := hs
    exact ⟨s.rsp, by rw [← hl, List.length_nil, Nat.zero_add]⟩
  | cons c cs ih =>
    obtain ⟨rsp, e⟩ := ih (s := { s with rsp := some (s.ctr c), inputs := presented (cs.map .rdctr) ++ l }) hr rfl
    rw [List.length_cons, Nat.add_right_comm]
    exact ⟨rsp, (run_succ _ (step_rdctr_word hr hs)).trans e⟩

/-- Settles O52: each selector's step comes after the steps of the selectors below it, and the status's after all. -/
theorem reportReadsEveryCounter : Obligations.ReportReadsEveryCounter := by
  intro s hr hs
  refine ⟨fun c => ?counter, ?status⟩
  case counter =>
    obtain ⟨before, after, hsplit, hlen⟩ := report_split c
    rw [hsplit, presented_append] at hs
    obtain ⟨rsp, e⟩ := run_rdctrs before 1 hr hs
    rw [← hlen]
    exact ⟨_, e.trans (run_succ 0 (step_rdctr_word hr rfl)), rfl⟩
  case status =>
    rw [report, presented_append] at hs
    obtain ⟨rsp, e⟩ := run_rdctrs Counter.all 1 hr hs
    exact ⟨_, e.trans (run_succ 0 (step_rdstat_word rfl)), rfl, rfl⟩

/-! ## A RECORD that no word encodes -/

theorem raise_of_no_fault (code : FaultCode) {s : State} (h : s.status.fault = .none) :
    raise code s = { s with status := { s.status with fault := code } } := by
  rw [raise, latch_of_none code h]

/-- Settles O25: the kind is checked before anything else (60_exceptions.md R174; log 12). -/
theorem recordOfUninitializedIsIllegal : Obligations.RecordOfUninitializedIsIllegal := by
  intro d a b s hf
  rw [exec_record, if_neg (by decide), raise_of_no_fault (s := quiet s) _ hf]
  rfl

end Sys2Proof.Machine
end

section
/-! PROOFS. The components share no state (30_encoding.md R95): what a command of one component reads and writes. -/

namespace Sys2Proof.Machine

/-! ## Agreement in a component -/

/-- Two states agree in a component and in what its commands may read beside it (10_state.md R37). -/
def Agree (k : Component) (s t : State) : Prop := SameIn k s t ∧ SameShared s t

/-- What the operation leaves of a component depends on nothing but that component and what is shared. -/
def Respects (k : Component) (f : State → State) : Prop := ∀ s t, Agree k s t → Agree k (f s) (f t)

theorem Agree.cfg {k : Component} {s t : State} (h : Agree k s t) : s.cfg = t.cfg := by
  obtain ⟨_, hcfg, _⟩ := h
  exact hcfg

theorem Agree.ready {k : Component} {s t : State} (h : Agree k s t) : s.status.ready = t.status.ready := by
  obtain ⟨_, _, hready, _⟩ := h
  exact hready

theorem Agree.fault {k : Component} {s t : State} (h : Agree k s t) : s.status.fault = t.status.fault := by
  obtain ⟨_, _, _, hfault, _⟩ := h
  exact hfault

theorem Agree.symm {k : Component} {s t : State} (h : Agree k s t) : Agree k t s := by
  obtain ⟨hin, hcfg, hready, hfault, hdraws⟩ := h
  exact ⟨sameIn_symm hin, hcfg.symm, hready.symm, hfault.symm, hdraws.symm⟩

theorem Agree.trans {k : Component} {s t u : State} (h : Agree k s t) (g : Agree k t u) : Agree k s u := by
  obtain ⟨hin, hcfg, hready, hfault, hdraws⟩ := h
  obtain ⟨gin, gcfg, gready, gfault, gdraws⟩ := g
  exact ⟨sameIn_trans hin gin, hcfg.trans gcfg, hready.trans gready, hfault.trans gfault, hdraws.trans gdraws⟩

/-- The ports belong to no component. -/
theorem agree_ports (k : Component) (s : State) (rsp : Option Count) (inputs : List Input) :
    Agree k { s with rsp := rsp, inputs := inputs } s :=
  ⟨⟨by cases k <;> simp [SameElements], fun _ _ => rfl⟩, rfl, rfl, rfl, rfl⟩

theorem Respects.comp {k : Component} {f g : State → State} (hg : Respects k g) (hf : Respects k f) :
    Respects k fun s => g (f s) := fun s t h => hg _ _ (hf s t h)

/-! ## The shared operations -/

theorem quiet_respects (k : Component) : Respects k quiet := fun s t h =>
  ((agree_ports k s none s.inputs).trans h).trans (agree_ports k t none t.inputs).symm

theorem raise_respects (k : Component) (code : FaultCode) : Respects k (raise code) := by
  rintro s t ⟨⟨he, hc⟩, hcfg, hready, hfault, hdraws⟩
  refine ⟨⟨?_, hc⟩, hcfg, by simpa using hready, by simp [latch_fault, hfault], hdraws⟩
  cases k <;> simpa [SameElements] using he

theorem count_respects {k : Component} {c : Counter} (hc : c ∈ countersIn k) (n : Nat) : Respects k (count c n) := by
  rintro s t ⟨hin, hshared⟩
  exact count_sameIn k n hc hin hshared

/-- The common precondition looks at the command's effect on one state only. -/
theorem whenRunning_congr {act act' : State → State} {s : State} (h : act (quiet s) = act' (quiet s)) :
    whenRunning act s = whenRunning act' s := by
  rw [whenRunning, whenRunning, h]

theorem whenRunning_respects {k : Component} {act : State → State} (ha : Respects k act) :
    Respects k (whenRunning act) := by
  intro s t h
  have hquiet := quiet_respects k s t h
  rcases whenRunning_cases act s with ⟨hr, e⟩ | ⟨hr, hf, e⟩ | ⟨hr, hf, e⟩ <;> rw [e]
  · rw [whenRunning_notReady act t (h.ready ▸ hr)]
    exact raise_respects k _ _ _ hquiet
  · rw [whenRunning_frozen act t (h.ready ▸ hr) (h.fault ▸ hf)]
    exact hquiet
  · rw [whenRunning_running act t (h.ready ▸ hr) (h.fault ▸ hf)]
    exact ha _ _ hquiet

/-! ## The HazardTracker -/

theorem setArmed_respects (b : Bool) : Respects .hazardTracker (setArmed b) := by
  rintro s t ⟨⟨⟨hcur, hprev, _⟩, hc⟩, hshared⟩
  exact ⟨⟨⟨hcur, hprev, rfl⟩, hc⟩, hshared⟩

theorem record_respects (d a b : RegSlot) (k : Kind) : Respects .hazardTracker (record d a b k) := by
  intro s t h
  have ⟨⟨⟨hcur, hprev, harmed⟩, hc⟩, hshared⟩ := h
  rcases Bool.eq_false_or_eq_true s.status.armed with ha | ha
  · rw [record_armed d a b k ha, record_armed d a b k (harmed ▸ ha)]
    exact raise_respects _ _ _ _ h
  · rw [record_unarmed d a b k ha, record_unarmed d a b k (harmed ▸ ha)]
    exact setArmed_respects true _ _ ⟨⟨⟨rfl, by simp only [demoted, hcur, hprev], harmed⟩, hc⟩, hshared⟩

theorem check_respects : Respects .hazardTracker check := by
  intro s t h
  have ⟨⟨⟨hcur, hprev, harmed⟩, _⟩, _⟩ := h
  rcases Bool.eq_false_or_eq_true s.status.armed with ha | ha
  · rw [check_armed ha, check_armed (harmed ▸ ha), hcur, hprev]
    exact setArmed_respects false _ _ (count_respects (by decide) _ _ _ h)
  · rw [check_unarmed ha, check_unarmed (harmed ▸ ha)]
    exact raise_respects _ _ _ _ h

/-! ## The data cache model -/

theorem setDline_respects (r : Nat) (l : DLine) : Respects .dataCache (·.setDline r l) := by
  rintro s t ⟨⟨he, hc⟩, hcfg, hrest⟩
  exact ⟨⟨by simp_all [SameElements], hc⟩, hcfg, hrest⟩

theorem Agree.dlineAt {s t : State} (h : Agree .dataCache s t) (r : Nat) : s.dlineAt r = t.dlineAt r := by
  obtain ⟨⟨he, _⟩, hcfg, _⟩ := h
  have he : s.dline = t.dline := he
  rw [State.dlineAt, State.dlineAt, he, hcfg]

theorem readLine_respects (a : Addr) : Respects .dataCache (readLine a) := by
  intro s t h
  unfold readLine
  rw [h.cfg, h.dlineAt]
  exact setDline_respects _ _ _ _ (count_respects (by decide) _ s t h)

theorem writeLine_respects (a : Addr) : Respects .dataCache (writeLine a) := by
  intro s t h
  unfold writeLine
  rw [h.cfg, h.dlineAt]
  exact setDline_respects _ _ _ _ (count_respects (by decide) _ s t h)

theorem unalignedTail_respects {line : Addr → State → State} (hline : ∀ a, Respects .dataCache (line a)) (a : Addr) :
    Respects .dataCache (unalignedTail a line) := by
  intro s t h
  have hcount := count_respects (k := .dataCache) (c := .unal) (by decide) 1 s t h
  unfold unalignedTail
  rw [h.cfg]
  split_ifs
  · exact hline _ _ _ hcount
  · exact hcount
  · exact h

theorem dataAccess_respects {line : Addr → State → State} (hline : ∀ a, Respects .dataCache (line a)) (a : Addr) :
    Respects .dataCache (dataAccess line a) :=
  (unalignedTail_respects hline a).comp ((hline a).comp (count_respects (by decide) 1))

/-! ## The instruction cache model -/

theorem setIline_respects (r : Nat) (l : ILine) : Respects .instructionCache (·.setIline r l) := by
  rintro s t ⟨⟨he, hc⟩, hcfg, hrest⟩
  exact ⟨⟨by simp_all [SameElements], hc⟩, hcfg, hrest⟩

theorem Agree.ilineAt {s t : State} (h : Agree .instructionCache s t) (r : Nat) : s.ilineAt r = t.ilineAt r := by
  obtain ⟨⟨he, _⟩, hcfg, _⟩ := h
  have he : s.iline = t.iline := he
  rw [State.ilineAt, State.ilineAt, he, hcfg]

theorem fetchLine_respects (a : Addr) : Respects .instructionCache (fetchLine a) := by
  intro s t h
  unfold fetchLine
  rw [h.cfg, h.ilineAt]
  exact setIline_respects _ _ _ _ (count_respects (by decide) _ s t h)

/-! ## The BranchPredictorBank -/

theorem setTarget_respects (i : Nat) (a : Addr) : Respects .branchPredictors (·.setTarget i a) := by
  rintro s t ⟨⟨he, hc⟩, hcfg, hrest⟩
  exact ⟨⟨by simp_all [SameElements], hc⟩, hcfg, hrest⟩

theorem setB1_respects (i : Nat) (e : B1Entry) : Respects .branchPredictors (·.setB1 i e) := by
  rintro s t ⟨⟨he, hc⟩, hcfg, hrest⟩
  exact ⟨⟨by simp_all [SameElements], hc⟩, hcfg, hrest⟩

theorem setB2_respects (i : Nat) (e : B2Entry) : Respects .branchPredictors (·.setB2 i e) := by
  rintro s t ⟨⟨he, hc⟩, hcfg, hrest⟩
  exact ⟨⟨by simp_all [SameElements], hc⟩, hcfg, hrest⟩

theorem Agree.b1At {s t : State} (h : Agree .branchPredictors s t) (i : Nat) : s.b1At i = t.b1At i := by
  obtain ⟨⟨⟨_, hb1, _⟩, _⟩, hcfg, _⟩ := h
  rw [State.b1At, State.b1At, hb1, hcfg]

theorem Agree.b2At {s t : State} (h : Agree .branchPredictors s t) (i : Nat) : s.b2At i = t.b2At i := by
  obtain ⟨⟨⟨_, _, hb2⟩, _⟩, hcfg, _⟩ := h
  rw [State.b2At, State.b2At, hb2, hcfg]

theorem scoreB1_respects (i : Nat) (r : Scored B1Entry) : Respects .branchPredictors (scoreB1 i r) :=
  (setB1_respects i r.entry).comp (count_respects (by split <;> decide) 1)

theorem scoreB2_respects (i : Nat) (r : Scored B2Entry) : Respects .branchPredictors (scoreB2 i r) :=
  (setB2_respects i r.entry).comp (count_respects (by split <;> decide) 1)

theorem branchTaken_respects (i : Nat) (tgt : Addr) : Respects .branchPredictors (branchTaken i tgt) := by
  have hat : Respects .branchPredictors (atTaken i tgt) :=
    (setTarget_respects i tgt).comp (count_respects (by decide) 1)
  have hnt : Respects .branchPredictors ntTaken := count_respects (by decide) 1
  have hb1 : Respects .branchPredictors (scoreB1Taken i tgt) := fun s t h => by
    unfold scoreB1Taken
    rw [h.b1At]
    exact scoreB1_respects i _ s t h
  have hb2 : Respects .branchPredictors (scoreB2Taken i tgt) := fun s t h => by
    unfold scoreB2Taken
    rw [h.b2At]
    exact scoreB2_respects i _ s t h
  exact hb2.comp (hb1.comp (hnt.comp hat))

theorem branchNotTaken_respects (i : Nat) (nt : Addr) : Respects .branchPredictors (branchNotTaken i nt) := by
  have hat : Respects .branchPredictors atNotTaken := count_respects (by decide) 1
  have hnt : Respects .branchPredictors ntNotTaken := count_respects (by decide) 1
  have hb1 : Respects .branchPredictors (scoreB1NotTaken i nt) := fun s t h => by
    unfold scoreB1NotTaken
    rw [h.b1At]
    exact scoreB1_respects i _ s t h
  have hb2 : Respects .branchPredictors (scoreB2NotTaken i nt) := fun s t h => by
    unfold scoreB2NotTaken
    rw [h.b2At]
    exact scoreB2_respects i _ s t h
  exact hb2.comp (hb1.comp (hnt.comp hat))

/-! ## The commands -/

theorem effectOf_respects {i : Instr} {k : Component} (hk : componentOf i = some k) : Respects k (effectOf i) := by
  cases i with
  | reset | rdctr | rdstat => cases hk
  | record d a b kind => cases hk; exact record_respects d a b kind
  | check => cases hk; exact check_respects
  | dread a => cases hk; exact dataAccess_respects readLine_respects a
  | dwrite a => cases hk; exact dataAccess_respects writeLine_respects a
  | ifetch a => cases hk; exact (fetchLine_respects a).comp (count_respects (by decide) 1)
  | btaken pc tgt =>
    cases hk
    intro s t h
    simp only [effectOf, h.cfg]
    exact branchTaken_respects _ tgt s t h
  | bntaken pc tgt =>
    cases hk
    intro s t h
    simp only [effectOf, h.cfg]
    exact branchNotTaken_respects _ _ s t h

/-- A component's command goes through the common precondition (60_exceptions.md R176). -/
theorem exec_component {i : Instr} {k : Component} (hi : i.wellFormed = true) (hk : componentOf i = some k)
    (s : State) : exec i s = .next (whenRunning (effectOf i) s) := by
  cases i with
  | reset | rdctr | rdstat => cases hk
  | record d a b kind =>
    have hkind : kind.recordable = true := hi
    rw [exec_record, if_pos hkind]
    exact congrArg Host.Outcome.next (whenRunning_congr rfl)
  | check | dread | dwrite | ifetch | btaken | bntaken => exact congrArg Host.Outcome.next (whenRunning_congr rfl)

/-- The counters that a component's command changes are the component's (10_state.md R31). -/
theorem not_mem_countersOf {i : Instr} {j k : Component} (hk : componentOf i = some k) (hj : j ≠ k) {c : Counter}
    (hc : c ∈ countersIn j) : c ∉ countersOf i := by
  have own : ∀ c ∈ countersOf i, c ∈ countersIn k := by
    cases i <;> cases hk <;> simp [countersOf, countersIn]
  intro hmem
  obtain ⟨m, _, hunique⟩ := counter_in_one_component c
  exact hj ((hunique j hc).trans (hunique k (own c hmem)).symm)

theorem exec_other_component {i : Instr} {j k : Component} {s t : State} (e : exec i s = .next t)
    (hk : componentOf i = some k) (hj : j ≠ k) : SameIn j t s := by
  have helements : SameElements j s t :=
    exec_other_elements e (ne_reset_of_component hk) fun h => hj (Option.some.inj (h.symm.trans hk))
  have hcounters : ∀ c ∈ countersIn j, s.ctr c = t.ctr c := fun c hc =>
    (commandsChangeOnlyTheirCounters i s t c e (not_mem_countersOf hk hj hc)).symm
  exact sameIn_symm ⟨helements, hcounters⟩

/-- Settles O55: a command acts in both states or in neither, and what it does respects its component. -/
theorem eachComponentReadsAndWritesOnlyItself : Obligations.EachComponentReadsAndWritesOnlyItself := by
  intro k i s t hi hk hin hshared
  obtain ⟨hin', hshared'⟩ := whenRunning_respects (effectOf_respects hk) s t ⟨hin, hshared⟩
  have hs := exec_component hi hk s
  exact ⟨_, _, hs, exec_component hi hk t, hin', hshared', fun _ hj => exec_other_component hs hk hj⟩

end Sys2Proof.Machine
end

section
/-! PROOFS. No order among the commands of different components is needed (30_encoding.md R95; 70_reset_and_hazards.md
R195): a run leaves each component as the run of that component's own commands does. -/

namespace Sys2Proof.Machine

/-! ## Bounded sums draw nothing -/

/-- From `s` to `t` each counter `c` goes up by at most `b c`, and while those sums stay within 64 bits no free value is
drawn (log 9). -/
structure RisesWithin (b : Counter → Nat) (s t : State) : Prop where
  rises : ∀ c, RisesBy c (b c) s t
  draws : (∀ c, (s.ctr c).toNat + b c < 2 ^ 64) → t.draws = s.draws

theorem RisesWithin.of_same {s t : State} (hc : ∀ c, t.ctr c = s.ctr c) (hd : t.draws = s.draws) :
    RisesWithin (fun _ => 0) s t := ⟨fun c => .of_eq (hc c), fun _ => hd⟩

theorem RisesWithin.mono {b b' : Counter → Nat} {s t : State} (h : RisesWithin b s t) (hb : ∀ c, b c ≤ b' c) :
    RisesWithin b' s t :=
  ⟨fun c => (h.rises c).mono (hb c), fun hlt => h.draws fun c => (Nat.add_le_add_left (hb c) _).trans_lt (hlt c)⟩

theorem RisesWithin.trans {b b' : Counter → Nat} {s t u : State} (h : RisesWithin b s t) (g : RisesWithin b' t u) :
    RisesWithin (fun c => b c + b' c) s u where
  rises c := (h.rises c).trans (g.rises c)
  draws hlt := by
    have hfst : ∀ c, (s.ctr c).toNat + b c < 2 ^ 64 := fun c => by have := hlt c; omega
    have hsnd : ∀ c, (t.ctr c).toNat + b' c < 2 ^ 64 := fun c => by
      have := hlt c
      have := (h.rises c).bounds (hfst c)
      omega
    exact (g.draws hsnd).trans (h.draws hfst)

/-- `RisesWithin` looks at the counters and the draw counter only. -/
theorem RisesWithin.congr {b : Counter → Nat} {s t u : State} (h : RisesWithin b s t) (hc : ∀ c, u.ctr c = t.ctr c)
    (hd : u.draws = t.draws) : RisesWithin b s u :=
  ⟨fun c => (h.rises c).congr (hc c), fun hlt => hd.trans (h.draws hlt)⟩

theorem count_risesWithin (d : Counter) (n : Nat) (s : State) :
    RisesWithin (fun c => if c = d then n else 0) s (count d n s) :=
  ⟨fun c => count_risesBy c d n s, fun hlt => count_draws d n s (by simpa using hlt d)⟩

theorem count_one_risesWithin (d : Counter) (s : State) : RisesWithin (fun _ => 1) s (count d 1 s) :=
  (count_risesWithin d 1 s).mono fun c => by split <;> omega

theorem readLine_risesWithin (a : Addr) (s : State) :
    RisesWithin (fun c => if c = .dmiss then 2 else 0) s (readLine a s) :=
  ((count_risesWithin .dmiss _ s).congr (readLine_ctr a s) rfl).mono fun c => by split <;> simp [readCost_le]

theorem writeLine_risesWithin (a : Addr) (s : State) :
    RisesWithin (fun c => if c = .dmiss then 2 else 0) s (writeLine a s) :=
  ((count_risesWithin .dmiss _ s).congr (writeLine_ctr a s) rfl).mono fun c => by
    split <;> simp [(writeCost_le _ _).trans one_le_two]

theorem dataAccess_risesWithin {line : Addr → State → State} (a : Addr) (s : State)
    (hline : ∀ b t, RisesWithin (fun c => if c = .dmiss then 2 else 0) t (line b t)) :
    RisesWithin (fun _ => 4) s (dataAccess line a s) := by
  have haccess := (count_risesWithin .dacc 1 s).trans (hline a _)
  have htail := haccess.trans (count_risesWithin .unal 1 _)
  have hspill := htail.trans (hline (spill a) _)
  unfold dataAccess
  rcases unalignedTail_cases a line (line a (count .dacc 1 s)) with ⟨_, e⟩ | ⟨_, _, e⟩ | ⟨_, _, e⟩ <;> rw [e]
  · exact haccess.mono fun c => by cases c <;> decide
  · exact htail.mono fun c => by cases c <;> decide
  · exact hspill.mono fun c => by cases c <;> decide

theorem fetchLine_risesWithin (a : Addr) (s : State) : RisesWithin (fun _ => 1) s (fetchLine a s) :=
  ((count_risesWithin .imiss _ s).congr (fetchLine_ctr a s) rfl).mono fun c => by split <;> simp [fetchCost_le]

theorem check_risesWithin (s : State) : RisesWithin (fun _ => 1) s (check s) := by
  rcases Bool.eq_false_or_eq_true s.status.armed with ha | ha
  · rw [check_armed ha]
    have hcount := count_risesWithin .haz (if loadUse s.prev s.cur then 1 else 0) s
    exact (hcount.congr (setArmed_ctr false _) rfl).mono fun c => by split_ifs <;> decide
  · rw [check_unarmed ha]
    exact (RisesWithin.of_same (raise_ctr _ _) rfl).mono fun _ => zero_le_one

theorem scoreB1_risesWithin (i : Nat) (r : Scored B1Entry) (s : State) :
    RisesWithin (fun _ => 1) s (scoreB1 i r s) := (count_one_risesWithin _ s).congr (scoreB1_ctr i r s) rfl

theorem scoreB2_risesWithin (i : Nat) (r : Scored B2Entry) (s : State) :
    RisesWithin (fun _ => 1) s (scoreB2 i r s) := (count_one_risesWithin _ s).congr (scoreB2_ctr i r s) rfl

theorem branchTaken_risesWithin (i : Nat) (tgt : Addr) (s : State) :
    RisesWithin (fun _ => 4) s (branchTaken i tgt s) := by
  have hat : RisesWithin (fun _ => 1) s (atTaken i tgt s) :=
    (count_one_risesWithin .atHit s).congr (atTaken_ctr i tgt s) rfl
  have hnt := hat.trans (count_one_risesWithin .ntMiss _)
  have hb1 : RisesWithin (fun _ => 3) s (scoreB1Taken i tgt (ntTaken (atTaken i tgt s))) :=
    hnt.trans (scoreB1_risesWithin i _ _)
  exact hb1.trans (scoreB2_risesWithin i _ _)

theorem branchNotTaken_risesWithin (i : Nat) (nt : Addr) (s : State) :
    RisesWithin (fun _ => 4) s (branchNotTaken i nt s) := by
  have hnt := (count_one_risesWithin .atMiss s).trans (count_one_risesWithin .ntHit _)
  have hb1 : RisesWithin (fun _ => 3) s (scoreB1NotTaken i nt (ntNotTaken (atNotTaken s))) :=
    hnt.trans (scoreB1_risesWithin i _ _)
  exact hb1.trans (scoreB2_risesWithin i _ _)

theorem effectOf_risesWithin {i : Instr} (hi : i ≠ .reset) (s : State) :
    RisesWithin (fun _ => 4) s (effectOf i s) := by
  cases i with
  | reset => exact absurd rfl hi
  | record d a b k =>
    exact (RisesWithin.of_same (record_ctr d a b k s) (record_draws d a b k s)).mono fun _ => by decide
  | check => exact (check_risesWithin s).mono fun _ => by decide
  | dread a => exact dataAccess_risesWithin a s readLine_risesWithin
  | dwrite a => exact dataAccess_risesWithin a s writeLine_risesWithin
  | ifetch a =>
    exact ((count_one_risesWithin .iacc s).trans (fetchLine_risesWithin a _)).mono fun _ => by decide
  | btaken pc tgt => exact branchTaken_risesWithin _ tgt s
  | bntaken pc tgt => exact branchNotTaken_risesWithin _ _ s
  | rdctr | rdstat => exact (RisesWithin.of_same (fun _ => rfl) rfl).mono fun _ => by decide

/-! ## What a command leaves of the fields that are no component's -/

@[simp] theorem effectOf_cfg (i : Instr) (s : State) : (effectOf i s).cfg = s.cfg := by cases i <;> simp [effectOf]

@[simp] theorem effectOf_rsp (i : Instr) (s : State) : (effectOf i s).rsp = s.rsp := by cases i <;> simp [effectOf]

@[simp] theorem effectOf_inputs (i : Instr) (s : State) : (effectOf i s).inputs = s.inputs := by
  cases i <;> simp [effectOf]

theorem effectOf_status_other {i : Instr} (hr : i ≠ .reset) (hk : componentOf i ≠ some .hazardTracker) (s : State) :
    (effectOf i s).status = s.status := by
  cases i with
  | reset => exact absurd rfl hr
  | record | check => exact absurd rfl hk
  | dread | dwrite | ifetch | btaken | bntaken | rdctr | rdstat => simp [effectOf]

/-- A command that keeps the pairing raises nothing, and the pairing goes on from it (70_reset_and_hazards.md R198). -/
theorem effectOf_keeps_paired {i : Instr} {l : List Instr} {s : State} (hs : s.Running) (hr : i ≠ .reset)
    (hp : paired s.status.armed (i :: l) = true) :
    (effectOf i s).Running ∧ paired (effectOf i s).status.armed l = true := by
  by_cases hk : componentOf i = some .hazardTracker
  · rcases eq_of_component_hazardTracker hk with ⟨d, a, b, k, rfl⟩ | rfl
    · simp only [paired, Bool.and_eq_true, Bool.not_eq_true'] at hp
      obtain ⟨⟨harmed, _⟩, hp⟩ := hp
      rw [effectOf, record_unarmed d a b k harmed]
      exact ⟨hs, hp⟩
    · simp only [paired, Bool.and_eq_true] at hp
      obtain ⟨harmed, hp⟩ := hp
      rw [effectOf, check_armed harmed]
      exact ⟨by simpa [State.Running] using hs, hp⟩
  · rw [paired_cons_other hr hk] at hp
    simp only [State.Running, effectOf_status_other hr hk]
    exact ⟨hs, hp⟩

theorem wellFormed_of_paired {b : Bool} {i : Instr} {l : List Instr} (hp : paired b (i :: l) = true) :
    i.wellFormed = true := by
  cases i with
  | record d a b k =>
    simp only [paired, Bool.and_eq_true] at hp
    obtain ⟨⟨_, hk⟩, _⟩ := hp
    exact hk
  | _ => rfl

/-! ## Runs of component commands -/

theorem ne_reset_of_component_ne_none {i : Instr} (h : componentOf i ≠ none) : i ≠ .reset := by
  rintro rfl
  exact h rfl

/-- The block faces a paired stream of component commands, with room in every counter for all of it. -/
structure Facing (s : State) (l : List Instr) : Prop where
  running : s.Running
  paired : paired s.status.armed l = true
  components : ∀ i ∈ l, componentOf i ≠ none
  headroom : s.Headroom (4 * l.length)
  inputs : s.inputs = presented l

/-- The state after the word of a command that acts, the rest of the inputs being `l`. -/
def afterWord (i : Instr) (l : List Input) (s : State) : State := effectOf i (quiet { s with inputs := l })

theorem step_acts {s : State} {i : Instr} {k : Component} {l : List Input} (hs : s.Running)
    (hi : i.wellFormed = true) (hk : componentOf i = some k) (hl : s.inputs = .cmd (encode i) :: l) :
    step s = .next (afterWord i l s) := by
  obtain ⟨hr, hf⟩ := hs
  rw [step_encode hi hl, exec_component hi hk, whenRunning_running _ { s with inputs := l } hr hf, afterWord]

theorem afterWord_respects {i : Instr} {k : Component} (hk : componentOf i = some k) (l m : List Input) {s t : State}
    (h : Agree k s t) : Agree k (afterWord i l s) (afterWord i m t) :=
  effectOf_respects hk _ _ (((agree_ports k s none l).trans h).trans (agree_ports k t none m).symm)

theorem afterWord_risesWithin {i : Instr} (hi : i ≠ .reset) (l : List Input) (s : State) :
    RisesWithin (fun _ => 4) s (afterWord i l s) :=
  have h := effectOf_risesWithin hi (quiet { s with inputs := l })
  ⟨h.rises, h.draws⟩

/-- The first command of the stream acts. -/
theorem Facing.step {s : State} {i : Instr} {l : List Instr} (h : Facing s (i :: l)) :
    step s = .next (afterWord i (presented l) s) := by
  obtain ⟨k, hk⟩ := Option.ne_none_iff_exists'.mp (h.components i (by simp))
  exact step_acts h.running (wellFormed_of_paired h.paired) hk h.inputs

theorem Facing.not_reset {s : State} {i : Instr} {l : List Instr} (h : Facing s (i :: l)) : i ≠ .reset :=
  ne_reset_of_component_ne_none (h.components i (by simp))

/-- The first command leaves the block facing the rest of the stream. -/
theorem Facing.tail {s : State} {i : Instr} {l : List Instr} (h : Facing s (i :: l)) :
    Facing (afterWord i (presented l) s) l := by
  have hroom : ∀ c, (s.ctr c).toNat + (4 + 4 * l.length) < 2 ^ 64 := fun c => by
    have := h.headroom c
    rw [List.length_cons] at this
    omega
  obtain ⟨hrun, hpaired⟩ := effectOf_keeps_paired (s := quiet { s with inputs := presented l }) h.running h.not_reset
    h.paired
  refine ⟨hrun, hpaired, fun j hj => h.components j (by simp [hj]), fun c => ?_, by simp [afterWord]⟩
  have := ((afterWord_risesWithin h.not_reset (presented l) s).rises c).bounds (by have := hroom c; omega)
  have := hroom c
  omega

/-- The first command leaves what the components share. -/
theorem Facing.shared {s : State} {i : Instr} {l : List Instr} (h : Facing s (i :: l)) :
    SameShared (afterWord i (presented l) s) s := by
  obtain ⟨hready, hfault⟩ := h.running
  obtain ⟨hready', hfault'⟩ := h.tail.running
  refine ⟨by simp [afterWord], hready'.trans hready.symm, hfault'.trans hfault.symm, ?_⟩
  refine (afterWord_risesWithin h.not_reset (presented l) s).draws fun c => ?_
  have := h.headroom c
  rw [List.length_cons] at this
  omega

/-- A command of another component leaves agreement in this one. -/
theorem Facing.agree_other {s : State} {i : Instr} {l : List Instr} {k : Component} (h : Facing s (i :: l))
    (hk : componentOf i ≠ some k) : Agree k (afterWord i (presented l) s) s := by
  obtain ⟨j, hj⟩ := Option.ne_none_iff_exists'.mp (h.components i (by simp))
  refine ⟨?_, h.shared⟩
  have hne : k ≠ j := fun e => hk (e ▸ hj)
  have hexec := step_encode (wellFormed_of_paired h.paired) h.inputs
  rw [h.step] at hexec
  exact sameIn_trans (exec_other_component hexec.symm hj hne) (agree_ports k s s.rsp (presented l)).1

/-- A whole run takes every input and leaves the response port as its last command does (30_encoding.md R82). -/
theorem Facing.run {s : State} {l : List Instr} (h : Facing s l) :
    ∃ t, Sys2Proof.core.run l.length s = .next t ∧ t.inputs = [] ∧ t.rsp = if l = [] then s.rsp else none := by
  induction l generalizing s with
  | nil => exact ⟨s, rfl, h.inputs, rfl⟩
  | cons i l ih =>
    obtain ⟨t, hrun, hin, hrsp⟩ := ih h.tail
    exact ⟨t, (run_succ _ h.step).trans hrun, hin, by simp [hrsp, afterWord]⟩

/-- A run of the whole stream and a run of one component's commands alone agree in that component. -/
theorem Facing.run_commandsOf {k : Component} {s t u : State} {l : List Instr} (h : Facing s l)
    (hrun : Sys2Proof.core.run l.length s = .next t) (hu : u.inputs = presented (commandsOf k l)) (ha : Agree k s u) :
    ∃ v, Sys2Proof.core.run (commandsOf k l).length u = .next v ∧ Agree k t v := by
  induction l generalizing s u with
  | nil =>
    rw [List.length_nil, run_zero] at hrun
    injection hrun with hrun
    exact ⟨u, rfl, hrun ▸ ha⟩
  | cons i l ih =>
    rw [List.length_cons, run_succ _ h.step] at hrun
    rw [commandsOf_cons] at hu ⊢
    split_ifs at hu ⊢ with hk
    · rw [presented_cons] at hu
      obtain ⟨hready, hfault⟩ := h.running
      have hstep := step_acts ⟨ha.ready ▸ hready, ha.fault ▸ hfault⟩ (wellFormed_of_paired h.paired) hk hu
      rw [List.length_cons, run_succ _ hstep]
      exact ih h.tail hrun (by simp [afterWord]) (afterWord_respects hk _ _ ha)
    · exact ih h.tail hrun hu ((h.agree_other hk).trans ha)

/-! ## Two interleavings of one set of component streams -/

theorem paired_commandsOf {l : List Instr} (hl : ∀ i ∈ l, componentOf i ≠ none) (b : Bool) :
    paired b (commandsOf .hazardTracker l) = paired b l := by
  induction l generalizing b with
  | nil => rfl
  | cons i l ih =>
    obtain ⟨hi, hl⟩ := List.forall_mem_cons.mp hl
    have ih := ih hl
    rw [commandsOf_cons]
    split_ifs with hk
    · rcases eq_of_component_hazardTracker hk with ⟨d, a, c, kind, rfl⟩ | rfl <;> simp only [paired, ih]
    · rw [paired_cons_other (ne_reset_of_component_ne_none hi) hk, ih]

theorem length_eq_sum_commandsOf {l : List Instr} (hl : ∀ i ∈ l, componentOf i ≠ none) :
    l.length = (commandsOf .hazardTracker l).length + (commandsOf .dataCache l).length +
      (commandsOf .instructionCache l).length + (commandsOf .branchPredictors l).length := by
  induction l with
  | nil => rfl
  | cons i l ih =>
    obtain ⟨hi, hl⟩ := List.forall_mem_cons.mp hl
    obtain ⟨k, hk⟩ := Option.ne_none_iff_exists'.mp hi
    have := ih hl
    cases k <;> simp [commandsOf_cons, hk] <;> omega

/-- A state is its components, what they share and the ports. -/
theorem eq_of_agree {s t : State} (h : ∀ k, Agree k s t) (hrsp : s.rsp = t.rsp) (hin : s.inputs = t.inputs) :
    s = t := by
  have hctrs : s.ctrs = t.ctrs := Counters.ext_get fun c => by
    obtain ⟨k, hk, _⟩ := counter_in_one_component c
    obtain ⟨⟨_, hc⟩, _⟩ := h k
    exact hc c hk
  obtain ⟨⟨⟨hcur, hprev, harmed⟩, _⟩, hcfg, hready, hfault, hdraws⟩ := h .hazardTracker
  obtain ⟨⟨hd, _⟩, _⟩ := h .dataCache
  obtain ⟨⟨hi, _⟩, _⟩ := h .instructionCache
  obtain ⟨⟨⟨hat, hb1, hb2⟩, _⟩, _⟩ := h .branchPredictors
  obtain ⟨_, _, _, _, _, _, _, _, _, ⟨_, _, _⟩, _, _, _⟩ := s
  obtain ⟨_, _, _, _, _, _, _, _, _, ⟨_, _, _⟩, _, _, _⟩ := t
  simp_all [SameElements]

/-- Settles O56: both runs agree in each component with the run of that component's own commands, which is the same for
both. -/
theorem interleavingOfComponentsIsFree : Obligations.InterleavingOfComponentsIsFree := by
  rintro s l m hs hp ⟨hl, hm, hlm⟩ hroom
  have hlen : l.length = m.length := by
    rw [length_eq_sum_commandsOf hl, length_eq_sum_commandsOf hm, hlm, hlm, hlm, hlm]
  have hpm : paired s.status.armed m = true := by
    rw [← paired_commandsOf hm, ← hlm, paired_commandsOf hl, hp]
  have hnil : l = [] ↔ m = [] := by rw [← List.length_eq_zero_iff, hlen, List.length_eq_zero_iff]
  have facingL : Facing { s with inputs := presented l } l := ⟨hs, hp, hl, hroom, rfl⟩
  have facingM : Facing { s with inputs := presented m } m := ⟨hs, hpm, hm, hlen ▸ hroom, rfl⟩
  obtain ⟨t, ht, htin, htrsp⟩ := facingL.run
  obtain ⟨t', ht', htin', htrsp'⟩ := facingM.run
  have hagree : ∀ k, Agree k t t' := fun k => by
    have start (n : List Instr) :
        Agree k { s with inputs := presented n } { s with inputs := presented (commandsOf k l) } :=
      (agree_ports k s s.rsp _).trans (agree_ports k s s.rsp _).symm
    obtain ⟨v, hv, hagree⟩ := facingL.run_commandsOf ht rfl (start l)
    obtain ⟨v', hv', hagree'⟩ := facingM.run_commandsOf ht' (by rw [hlm]) (start m)
    rw [← hlm, hv] at hv'
    injection hv' with hv'
    exact hagree.trans (hv' ▸ hagree'.symm)
  have heq : t = t' := eq_of_agree hagree (by simp [htrsp, htrsp', hnil]) (htin.trans htin'.symm)
  exact ⟨t, ht, heq ▸ ht'⟩

end Sys2Proof.Machine
end

section
/-! PROOFS. The HazardTracker (40_hazard.md): what RECORD and CHECK do, and that HAZ counts the load-use pairs of a
stream. -/

namespace Sys2Proof.Machine

/-! ## RECORD -/

/-- A RECORD that a word encodes does what `record` says, on a ready block with no fault (60_exceptions.md R176). -/
theorem exec_record_running (d a b : RegSlot) {k : Kind} (hk : k.recordable = true) {s : State} (hs : s.Running) :
    exec (.record d a b k) s = .next (record d a b k (quiet s)) := by
  obtain ⟨hr, hf⟩ := hs
  rw [exec_record, if_pos hk, whenRunning_running _ s hr hf]

/-- Settles O24: the two branches of R110. -/
theorem recordResult : Obligations.RecordResult := by
  intro d a b k s hs hk
  rw [exec_record_running d a b hk hs]
  refine ⟨fun harmed => ?accepted, fun harmed => ?refused⟩
  case accepted =>
    rw [record_unarmed (s := quiet s) d a b k harmed]
    rfl
  case refused =>
    obtain ⟨_, hf⟩ := hs
    rw [record_armed (s := quiet s) d a b k harmed, raise_of_no_fault (s := quiet s) _ hf]
    rfl

/-! ## CHECK -/

theorem exec_check_running {s : State} (hs : s.Running) : exec .check s = .next (check (quiet s)) := by
  obtain ⟨hr, hf⟩ := hs
  rw [exec_check, whenRunning_running _ s hr hf]

theorem check_armed_countedUp {s : State} (harmed : s.status.armed = true) :
    CountedUp s (check s) .haz (if loadUse s.prev s.cur then 1 else 0) := fun hlt => by
  rw [check_armed harmed, setArmed_ctr, count_ctr_same _ _ _ hlt]

/-- All that an accepted CHECK can change: the counter file, the draw counter and `armed`. -/
theorem check_armed_eq {s : State} (harmed : s.status.armed = true) :
    check s = { s with
      ctrs := (check s).ctrs, draws := (check s).draws, status := { s.status with armed := false } } := by
  rw [check_armed harmed]
  conv_lhs => rw [count_eq]
  rfl

/-- Settles O26: the two branches of R111. -/
theorem checkResult : Obligations.CheckResult := by
  intro s hs
  rw [exec_check_running hs]
  refine ⟨fun harmed => ⟨check (quiet s), rfl, ?frame, ?haz, fun c hc => check_ctr_other (quiet s) hc⟩,
    fun harmed => ?refused⟩
  case frame => exact check_armed_eq (s := quiet s) harmed
  case haz =>
    have hcount := check_armed_countedUp (s := quiet s) harmed
    simpa only [CountedUp, quiet_ctr, quiet_prev, quiet_cur, loadUse_iff] using hcount
  case refused =>
    obtain ⟨_, hf⟩ := hs
    rw [check_unarmed (s := quiet s) harmed, raise_of_no_fault (s := quiet s) _ hf]
    rfl

/-- Settles O27: after a recorded memory read CHECK counts exactly when the slots are equal (40_hazard.md R112). -/
theorem slotsAreComparedAsValues : Obligations.SlotsAreComparedAsValues := by
  intro s i j hs harmed hkind hroom
  obtain ⟨haccepted, _⟩ := checkResult s hs
  obtain ⟨t, ht, _, hcount, _⟩ := haccepted harmed
  have hhaz := hcount (by split <;> omega)
  refine ⟨fun hdest hsrc2 => ⟨t, ht, ?unused⟩, fun hdest hsrc1 hsrc2 => ⟨t, ht, ?registers⟩⟩
  case unused => rw [hhaz, if_pos ⟨hkind, .inr (hdest.trans hsrc2.symm)⟩]
  case registers =>
    have hcond : (s.prev.kind = .memoryRead ∧ (s.prev.dest = s.cur.src1 ∨ s.prev.dest = s.cur.src2)) ↔ i = j := by
      simp [hkind, hdest, hsrc1, hsrc2]
    rw [hhaz, if_congr hcond rfl rfl]

/-! ## The hazards of a sequence of contexts -/

theorem loadUses_cons_cons (a b : Context) (l : List Context) :
    loadUses (a :: b :: l) = (if loadUse a b then 1 else 0) + loadUses (b :: l) := by
  simp only [loadUses, loadUse_iff]

/-- Only a memory read makes a hazard with what comes after it. -/
theorem loadUses_cons_of_not_memoryRead {a : Context} (ha : a.kind ≠ .memoryRead) (l : List Context) :
    loadUses (a :: l) = loadUses l := by
  cases l with
  | nil => rfl
  | cons b l => simp [loadUses, ha]

theorem recorded_cons_other {i : Instr} (hk : componentOf i ≠ some .hazardTracker) (l : List Instr) :
    recorded (i :: l) = recorded l := by
  cases i with
  | record | check => exact absurd rfl hk
  | reset | dread | dwrite | ifetch | btaken | bntaken | rdctr | rdstat => rfl

/-! ## The pairing at the HazardTracker's commands (70_reset_and_hazards.md R198) -/

theorem paired_record_iff {armed : Bool} {d a b : RegSlot} {k : Kind} {l : List Instr} :
    paired armed (.record d a b k :: l) = true ↔
      armed = false ∧ k.recordable = true ∧ paired true l = true := by
  simp [paired, and_assoc]

theorem paired_check_iff {armed : Bool} {l : List Instr} :
    paired armed (.check :: l) = true ↔ armed = true ∧ paired false l = true := by
  simp [paired]

/-! ## What a stream still owes HAZ

The hazards that the block's CHECKs have yet to count. No command of a paired stream changes the sum of HAZ and what is
owed. -/

/-- The hazard of a pending RECORD, and those that the stream's RECORDs make with the current context and one
another. -/
def hazardsDue (s : State) (l : List Instr) : Nat :=
  (if s.status.armed ∧ loadUse s.prev s.cur then 1 else 0) + loadUses (s.cur :: recorded l)

/-- Until a RECORD is accepted there is no previous context either (40_hazard.md R110). -/
def ContextsInOrder (s : State) : Prop := s.cur.kind = .uninitialized → s.prev.kind = .uninitialized

theorem hazardsDue_unarmed {s : State} (h : s.status.armed = false) (l : List Instr) :
    hazardsDue s l = loadUses (s.cur :: recorded l) := by
  simp [hazardsDue, h]

/-- What is owed looks at the HazardTracker only. -/
theorem hazardsDue_congr {s t : State} (h : SameElements .hazardTracker s t) (l : List Instr) :
    hazardsDue s l = hazardsDue t l := by
  obtain ⟨hcur, hprev, harmed⟩ := h
  rw [hazardsDue, hazardsDue, hcur, hprev, harmed]

/-- The context that RECORD copies makes the same hazard as the one it replaces. -/
theorem loadUse_demoted {s : State} (h : ContextsInOrder s) (c : Context) :
    loadUse (demoted s) c = loadUse s.cur c := by
  unfold demoted
  split
  · next hcur =>
    rw [Bool.eq_iff_iff, loadUse_iff, loadUse_iff, hcur, h hcur]
    simp
  · rfl

theorem record_hazardsDue {d a b : RegSlot} {k : Kind} {s : State} (hs : ContextsInOrder s)
    (harmed : s.status.armed = false) (l : List Instr) :
    hazardsDue (record d a b k s) l = hazardsDue s (.record d a b k :: l) := by
  rw [record_unarmed d a b k harmed, hazardsDue_unarmed harmed, recorded, loadUses_cons_cons, ← loadUse_demoted hs]
  simp [hazardsDue]

theorem check_hazardsDue {s : State} (harmed : s.status.armed = true) (l : List Instr) :
    hazardsDue s (.check :: l) = (if loadUse s.prev s.cur then 1 else 0) + hazardsDue (check s) l := by
  have hoff : (check s).status.armed = false := by rw [check_armed_eq harmed]
  rw [hazardsDue_unarmed hoff, check_cur, hazardsDue, recorded]
  simp only [harmed, true_and]

/-- HAZ belongs to the HazardTracker (10_state.md R31). -/
theorem haz_not_mem_countersOf {i : Instr} (hi : i ≠ .reset) (hk : componentOf i ≠ some .hazardTracker) :
    .haz ∉ countersOf i := by
  cases i with
  | reset => exact absurd rfl hi
  | record | check => exact absurd rfl hk
  | dread | dwrite | ifetch | btaken | bntaken | rdctr | rdstat => simp [countersOf]

/-- A command of a paired stream moves what it counts from what is owed to HAZ. -/
theorem effectOf_hazardsDue {i : Instr} {l : List Instr} {s : State} (hi : i ≠ .reset)
    (hp : paired s.status.armed (i :: l) = true) (hs : ContextsInOrder s)
    (hroom : (s.ctr .haz).toNat + hazardsDue s (i :: l) < 2 ^ 64) :
    ((effectOf i s).ctr .haz).toNat + hazardsDue (effectOf i s) l =
      (s.ctr .haz).toNat + hazardsDue s (i :: l) := by
  by_cases hk : componentOf i = some .hazardTracker
  · rcases eq_of_component_hazardTracker hk with ⟨d, a, b, k, rfl⟩ | rfl
    · obtain ⟨harmed, _, _⟩ := paired_record_iff.mp hp
      rw [effectOf, record_ctr, record_hazardsDue hs harmed]
    · obtain ⟨harmed, _⟩ := paired_check_iff.mp hp
      have hdue := check_hazardsDue harmed l
      have hcount := check_armed_countedUp harmed (by omega)
      rw [effectOf, hdue, hcount, Nat.add_assoc]
  · rw [effectOf_ctr_other i s (haz_not_mem_countersOf hi hk),
      ← hazardsDue_congr (effectOf_other_elements hi hk s), hazardsDue, hazardsDue, recorded_cons_other hk]

theorem effectOf_keeps_contextsInOrder {i : Instr} {l : List Instr} {s : State} (hi : i ≠ .reset)
    (hp : paired s.status.armed (i :: l) = true) (hs : ContextsInOrder s) : ContextsInOrder (effectOf i s) := by
  by_cases hk : componentOf i = some .hazardTracker
  · rcases eq_of_component_hazardTracker hk with ⟨d, a, b, k, rfl⟩ | rfl
    · obtain ⟨harmed, hkind, _⟩ := paired_record_iff.mp hp
      rw [effectOf, record_unarmed d a b k harmed]
      rintro rfl
      cases hkind
    · simpa [ContextsInOrder, effectOf] using hs
  · obtain ⟨hcur, hprev, _⟩ := effectOf_other_elements hi hk s
    rwa [ContextsInOrder, ← hcur, ← hprev]

/-! ## The run of a paired stream -/

/-- A command on a ready block with no fault acts (60_exceptions.md R176). Only RDCTR and RDSTAT drive the response
port. -/
theorem exec_running {i : Instr} (hi : i.wellFormed = true) {s : State} (hs : s.Running) :
    ∃ rsp, exec i s = .next { effectOf i (quiet s) with rsp := rsp } := by
  obtain ⟨hr, hf⟩ := hs
  rcases hk : componentOf i with _ | k
  · cases i with
    | reset => exact ⟨none, rfl⟩
    | rdctr c => exact ⟨some (s.ctr c), by rw [exec_rdctr, if_neg (by simp [hr])]; rfl⟩
    | rdstat => exact ⟨some (Status.response s.status), rfl⟩
    | record | check | dread | dwrite | ifetch | btaken | bntaken => cases hk
  · have hrsp : (effectOf i (quiet s)).rsp = none := by simp
    exact ⟨none, by rw [exec_component hi hk, whenRunning_running _ s hr hf, ← hrsp]⟩

/-- A running block faces a paired stream without RESET. -/
structure FacingPaired (s : State) (l : List Instr) : Prop where
  running : s.Running
  paired : paired s.status.armed l = true
  contexts : ContextsInOrder s
  noReset : Instr.reset ∉ l
  inputs : s.inputs = presented l

/-- The first command acts, leaves the block facing the rest of the stream, and keeps the sum of HAZ and what is
owed. -/
theorem FacingPaired.step {s : State} {i : Instr} {l : List Instr} (h : FacingPaired s (i :: l))
    (hroom : (s.ctr .haz).toNat + hazardsDue s (i :: l) < 2 ^ 64) :
    ∃ t, step s = .next t ∧ FacingPaired t l ∧
      (t.ctr .haz).toNat + hazardsDue t l = (s.ctr .haz).toNat + hazardsDue s (i :: l) := by
  obtain ⟨hi, hl⟩ := List.ne_and_not_mem_of_not_mem_cons h.noReset
  have hw := wellFormed_of_paired h.paired
  obtain ⟨rsp, hexec⟩ := exec_running hw (s := { s with inputs := presented l }) h.running
  obtain ⟨hrun, hpaired⟩ :=
    effectOf_keeps_paired (s := quiet { s with inputs := presented l }) h.running hi.symm h.paired
  exact ⟨_, (step_encode hw h.inputs).trans hexec,
    ⟨hrun, hpaired, effectOf_keeps_contextsInOrder hi.symm h.paired h.contexts, hl, by simp⟩,
    effectOf_hazardsDue (s := quiet { s with inputs := presented l }) hi.symm h.paired h.contexts hroom⟩

theorem FacingPaired.run {s : State} {l : List Instr} (h : FacingPaired s l)
    (hroom : (s.ctr .haz).toNat + hazardsDue s l < 2 ^ 64) :
    ∃ t, Sys2Proof.core.run l.length s = .next t ∧
      (t.ctr .haz).toNat + hazardsDue t [] = (s.ctr .haz).toNat + hazardsDue s l := by
  induction l generalizing s with
  | nil => exact ⟨s, rfl, rfl⟩
  | cons i l ih =>
    obtain ⟨u, hstep, hu, hsum⟩ := h.step hroom
    obtain ⟨t, hrun, ht⟩ := ih hu (hsum ▸ hroom)
    exact ⟨t, (run_succ _ hstep).trans hrun, ht.trans hsum⟩

/-- Settles O28: at the start the stream owes all its load-use pairs, after its last CHECK nothing. -/
theorem hazardCountOfAPairedStream : Obligations.HazardCountOfAPairedStream := by
  intro s l hs harmed hcur hprev hp hreset hin hroom
  have hdue : hazardsDue s l = loadUses (recorded l) := by
    rw [hazardsDue_unarmed harmed, loadUses_cons_of_not_memoryRead (by simp [hcur])]
  have h : FacingPaired s l := ⟨hs, harmed ▸ hp, fun _ => hprev, hreset, hin⟩
  obtain ⟨t, hrun, hsum⟩ := h.run (hdue ▸ hroom)
  refine ⟨t, hrun, fun hdone => ?_⟩
  have hpaid : hazardsDue t [] = 0 := by rw [hazardsDue_unarmed hdone]; rfl
  rw [← hdue, ← hsum, hpaid, Nat.add_zero]

end Sys2Proof.Machine
end

section
/-! PROOFS. The CacheModels (41_cache.md): what DREAD, DWRITE and IFETCH do, the resident line (R128), and runs of
writes alone (R124). -/

namespace Sys2Proof.Machine

/-! ## Exact increments -/

theorem CountedUp.of_eq {s t : State} {c : Counter} (h : t.ctr c = s.ctr c) : CountedUp s t c 0 := fun _ => by
  rw [h, Nat.add_zero]

/-- An increment of 0 never leaves the 64 bits. -/
theorem CountedUp.ctr_eq {s t : State} {c : Counter} (h : CountedUp s t c 0) : t.ctr c = s.ctr c :=
  BitVec.eq_of_toNat_eq (h (s.ctr c).isLt)

theorem CountedUp.trans {s t u : State} {c : Counter} {m n : Nat} (h : CountedUp s t c m) (g : CountedUp t u c n) :
    CountedUp s u c (m + n) := fun hlt => by
  have hmid := h (by omega)
  rw [g (by omega), hmid, Nat.add_assoc]

theorem count_countedUp (c d : Counter) (n : Nat) (s : State) :
    CountedUp s (count d n s) c ((Pi.single d n : Counter → Nat) c) := by
  by_cases h : c = d
  · subst h
    rw [Pi.single_eq_same]
    exact count_ctr_same c n s
  · rw [Pi.single_eq_of_ne h]
    exact .of_eq (count_ctr_other n s h)

/-! ## The line accesses

DREAD and DWRITE are one procedure with two line accesses (41_cache.md R123), which differ in what a miss costs and in
the line they leave. -/

/-- A line access to the data cache, by its miss table and the line it leaves (41_cache.md R121, R124). -/
def lineAccess (misses : DLine → BitVec 32 → Nat) (after : DLine → BitVec 32 → DLine) (a : Addr) (s : State) : State :=
  (count .dmiss (misses (s.dlineAt (rowOf s.cfg.dcache a)) (tagOf s.cfg.dcache a)) s).setDline
    (rowOf s.cfg.dcache a) (after (s.dlineAt (rowOf s.cfg.dcache a)) (tagOf s.cfg.dcache a))

/-- The procedure of R121 costs what the table of R122 says. -/
theorem readCost_eq_readMisses (l : DLine) (tag : BitVec 32) : readCost l tag = readMisses l tag := by
  obtain ⟨ltag, valid, dirty⟩ := l
  cases valid with
  | false => rfl
  | true => cases dirty <;> by_cases h : ltag = tag <;> simp [readCost, readMisses, h]

/-- The procedure of R124 costs what its table says. -/
theorem writeCost_eq_writeMisses (l : DLine) (tag : BitVec 32) : writeCost l tag = writeMisses l tag := by
  obtain ⟨ltag, valid, dirty⟩ := l
  cases valid with
  | false => rfl
  | true => cases dirty <;> by_cases h : ltag = tag <;> simp [writeCost, writeMisses, h]

theorem readLine_eq_lineAccess : readLine = lineAccess readMisses fun _ => readLineAfter := by
  funext a s
  rw [readLine, readCost_eq_readMisses, lineAccess]

theorem writeLine_eq_lineAccess : writeLine = lineAccess writeMisses writeLineAfter := by
  funext a s
  rw [writeLine, writeCost_eq_writeMisses, lineAccess]

/-- The data lines after a line access. -/
def linesAfter (after : DLine → BitVec 32 → DLine) (g : Geometry) (a : Addr) (lines : Nat → DLine) (r : Nat) : DLine :=
  if r = rowOf g a then after (lines r) (tagOf g a) else lines r

/-- A write line access leaves every valid bit as it was (41_cache.md R124). -/
theorem linesAfter_write_valid (g : Geometry) (a : Addr) (lines : Nat → DLine) (r : Nat) :
    (linesAfter writeLineAfter g a lines r).valid = (lines r).valid := by
  unfold linesAfter
  split <;> rfl

/-- What a second access finds at row `r` after a write line access at `a`. -/
theorem linesAfter_write_eq (g : Geometry) (a : Addr) (lines : Nat → DLine) (r : Nat) :
    linesAfter writeLineAfter g a lines r =
      if r = rowOf g a then { tag := tagOf g a, valid := (lines (rowOf g a)).valid, dirty := true } else lines r := by
  unfold linesAfter
  split
  · next hr => rw [hr, writeLineAfter]
  · rfl

/-! ## What the steps of a data command do -/

/-- From `s` to `t` the data lines became `lines`, every counter went up by `counts`, and nothing else of the block
changed. -/
structure DataEffect (s t : State) (lines : Nat → DLine) (counts : Counter → Nat) : Prop where
  frame : t = { s with dline := t.dline, ctrs := t.ctrs, draws := t.draws }
  dlineAt : ∀ r, t.dlineAt r = lines r
  counted : ∀ c, CountedUp s t c (counts c)

theorem DataEffect.cfg {s t : State} {lines : Nat → DLine} {counts : Counter → Nat}
    (h : DataEffect s t lines counts) : t.cfg = s.cfg := by rw [h.frame]

theorem DataEffect.trans {s t u : State} {lines lines' : Nat → DLine} {counts counts' : Counter → Nat}
    (h : DataEffect s t lines counts) (g : DataEffect t u lines' counts') :
    DataEffect s u lines' (counts + counts') where
  frame := by rw [g.frame, h.frame]
  dlineAt := g.dlineAt
  counted c := (h.counted c).trans (g.counted c)

/-- Counting leaves the lines. -/
theorem DataEffect.count {s t : State} {lines : Nat → DLine} {counts : Counter → Nat}
    (h : DataEffect s t lines counts) (c : Counter) (n : Nat) :
    DataEffect s (count c n t) lines (counts + Pi.single c n) :=
  h.trans ⟨(count_eq c n t).trans (by rw [count_dline]), fun r => (count_dlineAt c n t r).trans (h.dlineAt r),
    fun d => count_countedUp d c n t⟩

/-- A line access reads the lines and the configuration that the steps before it left. -/
theorem DataEffect.lineAccess {s t : State} {lines : Nat → DLine} {counts : Counter → Nat}
    (h : DataEffect s t lines counts) (misses : DLine → BitVec 32 → Nat) (after : DLine → BitVec 32 → DLine)
    (a : Addr) :
    DataEffect s (lineAccess misses after a t) (linesAfter after s.cfg.dcache a lines)
      (counts + Pi.single .dmiss (misses (lines (rowOf s.cfg.dcache a)) (tagOf s.cfg.dcache a))) := by
  rw [← h.cfg, ← h.dlineAt]
  refine h.trans ⟨?frame, fun r => ?line, fun c => count_countedUp c .dmiss _ t⟩
  case frame =>
    unfold Machine.lineAccess
    rw [count_eq]
    rfl
  case line =>
    rw [Machine.lineAccess, setDline_dlineAt, count_dlineAt, linesAfter, ← h.dlineAt]
    split
    · next hr => rw [hr]
    · rfl

theorem DataEffect.refl (s : State) : DataEffect s s s.dlineAt 0 := ⟨rfl, fun _ => rfl, fun _ => .of_eq rfl⟩

/-! ## Data commands -/

/-- What a data command counts (41_cache.md R120, R125). -/
def dataCounts (unal dmiss : Nat) : Counter → Nat := Pi.single .dacc 1 + Pi.single .dmiss dmiss + Pi.single .unal unal

/-- The spill access adds to DMISS alone (41_cache.md R126). -/
theorem dataCounts_add_dmiss (unal m n : Nat) :
    dataCounts unal m + Pi.single .dmiss n = dataCounts unal (m + n) := by
  rw [dataCounts, dataCounts, Pi.single_add, ← add_assoc, add_right_comm]

/-- The tail of an access that stays in its line: UNAL for an unaligned address (41_cache.md R123). -/
theorem unalignedTail_within {a : Addr} {s : State}
    (h : ¬ (a.toNat % 4 ≠ 0 ∧ wordOf s.cfg.dcache a = lineWords s.cfg.dcache - 1)) (line : Addr → State → State) :
    unalignedTail a line s = count .unal (if a.toNat % 4 = 0 then 0 else 1) s := by
  rcases unalignedTail_cases a line s with ⟨hu, e⟩ | ⟨hu, _, e⟩ | ⟨hu, hl, _⟩
  · rw [e, if_pos (by simpa [hu] using unaligned_iff a), count_zero]
  · rw [e, if_neg ((unaligned_iff a).mp hu)]
  · exact absurd ⟨(unaligned_iff a).mp hu, by simpa [lastWord] using hl⟩ h

/-- The tail of an access that spills: UNAL and a second line access (41_cache.md R123, R126). -/
theorem unalignedTail_spilling {a : Addr} {s : State} (hu : a.toNat % 4 ≠ 0)
    (hw : wordOf s.cfg.dcache a = lineWords s.cfg.dcache - 1) (line : Addr → State → State) :
    unalignedTail a line s = line (spill a) (count .unal 1 s) := by
  rw [unalignedTail, if_pos ((unaligned_iff a).mpr hu), if_pos (by simpa [lastWord] using hw)]

section
variable (misses : DLine → BitVec 32 → Nat) (after : DLine → BitVec 32 → DLine) {a : Addr} {s : State}

theorem dataAccess_within (h : ¬ (a.toNat % 4 ≠ 0 ∧ wordOf s.cfg.dcache a = lineWords s.cfg.dcache - 1)) :
    DataEffect s (dataAccess (lineAccess misses after) a s) (linesAfter after s.cfg.dcache a s.dlineAt)
      (dataCounts (if a.toNat % 4 = 0 then 0 else 1)
        (misses (s.dlineAt (rowOf s.cfg.dcache a)) (tagOf s.cfg.dcache a))) := by
  have haccess := ((DataEffect.refl s).count .dacc 1).lineAccess misses after a
  rw [dataAccess, unalignedTail_within (by rwa [haccess.cfg])]
  simpa only [dataCounts, zero_add] using haccess.count .unal (if a.toNat % 4 = 0 then 0 else 1)

theorem dataAccess_spilling (hu : a.toNat % 4 ≠ 0) (hw : wordOf s.cfg.dcache a = lineWords s.cfg.dcache - 1) :
    DataEffect s (dataAccess (lineAccess misses after) a s)
      (linesAfter after s.cfg.dcache (spill a) (linesAfter after s.cfg.dcache a s.dlineAt))
      (dataCounts 1
        (misses (s.dlineAt (rowOf s.cfg.dcache a)) (tagOf s.cfg.dcache a) +
          misses (linesAfter after s.cfg.dcache a s.dlineAt (rowOf s.cfg.dcache (spill a)))
            (tagOf s.cfg.dcache (spill a)))) := by
  have haccess := ((DataEffect.refl s).count .dacc 1).lineAccess misses after a
  rw [dataAccess, unalignedTail_spilling hu (by rwa [haccess.cfg]), ← dataCounts_add_dmiss]
  simpa only [dataCounts, zero_add] using (haccess.count .unal 1).lineAccess misses after (spill a)

end

/-- The three counters of a data command, one by one, and the counters that stay. -/
theorem DataEffect.result {s t : State} {lines : Nat → DLine} {unal dmiss : Nat}
    (h : DataEffect s t lines (dataCounts unal dmiss)) :
    t = { s with dline := t.dline, ctrs := t.ctrs, draws := t.draws } ∧
      (∀ r, t.dlineAt r = lines r) ∧
      CountedUp s t .dacc 1 ∧ CountedUp s t .unal unal ∧ CountedUp s t .dmiss dmiss ∧
      ∀ c, c ≠ .dacc → c ≠ .unal → c ≠ .dmiss → t.ctr c = s.ctr c := by
  obtain ⟨hframe, hlines, hcounted⟩ := h
  refine ⟨hframe, hlines, ?dacc, ?unal, ?dmiss, fun c hd hu hm => CountedUp.ctr_eq ?other⟩
  case dacc => simpa [dataCounts] using hcounted .dacc
  case unal => simpa [dataCounts] using hcounted .unal
  case dmiss => simpa [dataCounts] using hcounted .dmiss
  case other => simpa [dataCounts, Pi.single_eq_of_ne hd, Pi.single_eq_of_ne hu, Pi.single_eq_of_ne hm] using hcounted c

theorem exec_dread_running (a : Addr) {s : State} (hs : s.Running) :
    exec (.dread a) s = .next (dataAccess (lineAccess readMisses fun _ => readLineAfter) a (quiet s)) := by
  obtain ⟨hr, hf⟩ := hs
  rw [exec_dread, whenRunning_running _ s hr hf, readLine_eq_lineAccess]

theorem exec_dwrite_running (a : Addr) {s : State} (hs : s.Running) :
    exec (.dwrite a) s = .next (dataAccess (lineAccess writeMisses writeLineAfter) a (quiet s)) := by
  obtain ⟨hr, hf⟩ := hs
  rw [exec_dwrite, whenRunning_running _ s hr hf, writeLine_eq_lineAccess]

/-- Settles O33: one read line access, then at most UNAL. -/
theorem dreadWithoutSpill : Obligations.DreadWithoutSpill := by
  intro a s hs hw
  exact ⟨_, exec_dread_running a hs, (dataAccess_within readMisses (fun _ => readLineAfter) (s := quiet s) hw).result⟩

/-- Settles O34: the second read line access is on the lines that the first left. -/
theorem dreadWithSpill : Obligations.DreadWithSpill := by
  intro a s hs hu hw
  exact ⟨_, exec_dread_running a hs,
    (dataAccess_spilling readMisses (fun _ => readLineAfter) (s := quiet s) hu hw).result⟩

/-- Settles O35: one write line access, then at most UNAL. -/
theorem dwriteWithoutSpill : Obligations.DwriteWithoutSpill := by
  intro a s hs hw
  exact ⟨_, exec_dwrite_running a hs, (dataAccess_within writeMisses writeLineAfter (s := quiet s) hw).result⟩

/-- Settles O36: the second write line access is on the lines that the first left, with their valid bits as they
were. -/
theorem dwriteWithSpill : Obligations.DwriteWithSpill := by
  intro a s hs hu hw
  obtain ⟨hframe, hlines, hdacc, hunal, hdmiss, hother⟩ :=
    (dataAccess_spilling writeMisses writeLineAfter (s := quiet s) hu hw).result
  refine ⟨_, exec_dwrite_running a hs, hframe, fun r => ?lines, hdacc, hunal, ?dmiss, hother⟩
  case lines =>
    rw [hlines, linesAfter, writeLineAfter, linesAfter_write_valid]
    rfl
  case dmiss =>
    rw [linesAfter_write_eq] at hdmiss
    exact hdmiss

/-! ## IFETCH -/

theorem exec_ifetch_running (a : Addr) {s : State} (hs : s.Running) :
    exec (.ifetch a) s = .next (fetchLine a (count .iacc 1 (quiet s))) := by
  obtain ⟨hr, hf⟩ := hs
  rw [exec_ifetch, whenRunning_running _ s hr hf]

/-- A fetch misses unless the line is valid and of the tag (41_cache.md R127). -/
theorem fetchCost_eq (l : ILine) (tag : BitVec 32) :
    fetchCost l tag = if l.valid = true ∧ l.tag = tag then 0 else 1 := by
  unfold fetchCost
  cases l.valid <;> by_cases h : l.tag = tag <;> simp [h]

/-- Settles O37: IACC is counted, then the line access, which reads the line that was there before. -/
theorem ifetchResult : Obligations.IfetchResult := by
  intro a s hs
  refine ⟨_, exec_ifetch_running a hs, ?frame, fun r => ?line, ?iacc, ?imiss, fun c hacc hmiss => ?other⟩
  case frame => rw [fetchLine_eq, count_eq]; rfl
  case line => rw [fetchLine_ilineAt, count_cfg, count_ilineAt]; rfl
  case iacc =>
    intro hlt
    rw [fetchLine_ctr_other _ _ (by decide)]
    exact count_ctr_same .iacc 1 (quiet s) hlt
  case imiss =>
    intro hlt
    have hsame : (count .iacc 1 (quiet s)).ctr .imiss = s.ctr .imiss := count_ctr_other 1 (quiet s) (by decide)
    rw [← fetchCost_eq] at hlt ⊢
    rw [fetchLine_ctr, count_cfg, count_ilineAt, count_ctr_same _ _ _ (by rwa [hsame]), hsame]
    rfl
  case other => rw [fetchLine_ctr_other _ _ hmiss, count_ctr_other _ _ hacc, quiet_ctr]

/-! ## Resident lines -/

theorem readMisses_resident {l : DLine} {tag : BitVec 32} (hv : l.valid = true) (ht : l.tag = tag) :
    readMisses l tag = 0 := by
  rw [← readCost_eq_readMisses, readCost, hv, ht]
  simp

theorem writeMisses_resident {l : DLine} {tag : BitVec 32} (ht : l.tag = tag) : writeMisses l tag = 0 := by
  rw [← writeCost_eq_writeMisses, writeCost, ht]
  simp

theorem writeMisses_invalid {l : DLine} (hv : l.valid = false) (tag : BitVec 32) : writeMisses l tag = 0 := by
  rw [← writeCost_eq_writeMisses, writeCost, hv]
  simp

/-- Settles O38: by the tables a resident line costs nothing, and an aligned access does not spill. -/
theorem residentLineAddsNoMiss : Obligations.ResidentLineAddsNoMiss := by
  intro a s hs
  refine ⟨fun hvalid htag haligned => ?data, fun hvalid htag => ?fetch⟩
  case data =>
    have hwithin : ¬ (a.toNat % 4 ≠ 0 ∧ wordOf s.cfg.dcache a = lineWords s.cfg.dcache - 1) :=
      fun ⟨hu, _⟩ => hu haligned
    obtain ⟨t, ht, _, htl, _, _, htm, _⟩ := dreadWithoutSpill a s hs hwithin
    obtain ⟨u, hu, _, hul, _, _, hum, _⟩ := dwriteWithoutSpill a s hs hwithin
    rw [readMisses_resident hvalid htag] at htm
    rw [writeMisses_resident htag] at hum
    refine ⟨⟨t, ht, htm.ctr_eq, ?_⟩, ⟨u, hu, hum.ctr_eq, ?_⟩⟩
    · rw [htl, if_pos rfl]
      exact ⟨rfl, rfl⟩
    · rw [hul, if_pos rfl]
      exact ⟨hvalid, rfl⟩
  case fetch =>
    obtain ⟨t, ht, _, hlines, _, hmiss, _⟩ := ifetchResult a s hs
    rw [if_pos ⟨hvalid, htag⟩] at hmiss
    refine ⟨t, ht, hmiss.ctr_eq, fun r => ?_⟩
    rw [hlines]
    split
    · next hr => rw [hr, ← htag, ← hvalid]
    · rfl

/-! ## Writes alone -/

/-- Every data line is invalid. -/
def AllInvalid (s : State) : Prop := ∀ r, (s.dlineAt r).valid = false

/-- A write misses on no invalid line and makes no line valid, whether it spills or not (41_cache.md R124, R126). -/
theorem exec_dwrite_allInvalid (a : Addr) {s : State} (hs : s.Running) (hinv : AllInvalid s) :
    ∃ t, exec (.dwrite a) s = .next t ∧ t.Running ∧ t.inputs = s.inputs ∧ t.ctr .dmiss = s.ctr .dmiss ∧
      AllInvalid t := by
  suffices h : ∃ t, exec (.dwrite a) s = .next t ∧
      t = { s with dline := t.dline, ctrs := t.ctrs, draws := t.draws, rsp := none } ∧ CountedUp s t .dmiss 0 ∧
      AllInvalid t by
    obtain ⟨t, ht, hframe, hmiss, hinv⟩ := h
    exact ⟨t, ht, by rw [hframe]; exact hs, by rw [hframe], hmiss.ctr_eq, hinv⟩
  by_cases hw : a.toNat % 4 ≠ 0 ∧ wordOf s.cfg.dcache a = lineWords s.cfg.dcache - 1
  · obtain ⟨hu, hw⟩ := hw
    obtain ⟨t, ht, hframe, hlines, _, _, hmiss, _⟩ := dwriteWithSpill a s hs hu hw
    rw [writeMisses_invalid (hinv _), writeMisses_invalid (by split <;> exact hinv _)] at hmiss
    exact ⟨t, ht, hframe, hmiss, fun r => by rw [hlines]; split_ifs <;> exact hinv r⟩
  · obtain ⟨t, ht, hframe, hlines, _, _, hmiss, _⟩ := dwriteWithoutSpill a s hs hw
    rw [writeMisses_invalid (hinv _)] at hmiss
    exact ⟨t, ht, hframe, hmiss, fun r => by rw [hlines]; split_ifs <;> exact hinv r⟩

/-- Settles O39, by induction on the writes. -/
theorem writesAloneNeverMissNorValidate : Obligations.WritesAloneNeverMissNorValidate := by
  intro s l hs hinv hin
  induction l generalizing s with
  | nil => exact ⟨s, rfl, rfl, hinv⟩
  | cons a l ih =>
    have hstep := step_encode (i := .dwrite a) (l := presented (l.map .dwrite)) rfl hin
    obtain ⟨u, hexec, hrun, huin, humiss, huinv⟩ :=
      exec_dwrite_allInvalid a (s := { s with inputs := presented (l.map .dwrite) }) hs hinv
    obtain ⟨t, ht, htmiss, htinv⟩ := ih u hrun huinv huin
    exact ⟨t, (run_succ _ (hstep.trans hexec)).trans ht, htmiss.trans humiss, htinv⟩

end Sys2Proof.Machine
end

section
/-! PROOFS. The BranchPredictorBank (42_branch.md): what BTAKEN and BNTAKEN do, the transition tables (R147), and the
scores of a stream (R152). -/

namespace Sys2Proof.Machine

/-! ## What a branch command counts -/

/-- What a branch adds to each counter, by its direction and by whether the 1-bit and the 2-bit strategy hit
(42_branch.md R140, R142 to R145). -/
def branchCounts (taken hit1 hit2 : Bool) : Counter → Nat
  | .haz => 0
  | .dmiss => 0
  | .imiss => 0
  | .unal => 0
  | .dacc => 0
  | .iacc => 0
  | .atHit => taken.toNat
  | .atMiss => (!taken).toNat
  | .ntHit => (!taken).toNat
  | .ntMiss => taken.toNat
  | .b1Hit => hit1.toNat
  | .b1Miss => (!hit1).toNat
  | .b2Hit => hit2.toNat
  | .b2Miss => (!hit2).toNat

/-- A branch counts in one counter of each strategy's pair (42_branch.md R140). -/
theorem branchCounts_eq_sum : ∀ taken hit1 hit2 : Bool, ∀ c ∈ Counter.all,
    branchCounts taken hit1 hit2 c =
      (Pi.single (if taken then .atHit else .atMiss) 1 + Pi.single (if taken then .ntMiss else .ntHit) 1 +
        Pi.single (if hit1 then .b1Hit else .b1Miss) 1 + Pi.single (if hit2 then .b2Hit else .b2Miss) 1 :
          Counter → Nat) c := by
  decide

theorem four_counts_countedUp (d₁ d₂ d₃ d₄ : Counter) (s : State) (c : Counter) :
    CountedUp s (count d₄ 1 (count d₃ 1 (count d₂ 1 (count d₁ 1 s)))) c
      ((Pi.single d₁ 1 + Pi.single d₂ 1 + Pi.single d₃ 1 + Pi.single d₄ 1 : Counter → Nat) c) :=
  (((count_countedUp c d₁ 1 s).trans (count_countedUp c d₂ 1 _)).trans (count_countedUp c d₃ 1 _)).trans
    (count_countedUp c d₄ 1 _)

theorem branchTaken_countedUp (i : Nat) (tgt : Addr) (s : State) (c : Counter) :
    CountedUp s (branchTaken i tgt s) c
      (branchCounts true (b1Taken (s.b1At i) tgt).hit (b2Taken (s.b2At i) tgt).hit c) := by
  rw [CountedUp, branchTaken_ctr, branchCounts_eq_sum _ _ _ c (Counter.mem_all c)]
  exact four_counts_countedUp .atHit .ntMiss _ _ s c

theorem branchNotTaken_countedUp (i : Nat) (nt : Addr) (s : State) (c : Counter) :
    CountedUp s (branchNotTaken i nt s) c
      (branchCounts false (b1NotTaken (s.b1At i) nt).hit (b2NotTaken (s.b2At i) nt).hit c) := by
  rw [CountedUp, branchNotTaken_ctr, branchCounts_eq_sum _ _ _ c (Counter.mem_all c)]
  exact four_counts_countedUp .atMiss .ntHit _ _ s c

/-! ## What a branch command does to the bank

The always-taken targets are left to the two commands' own lemmas: only BTAKEN writes one. -/

/-- From `s` to `t` the 1-bit and the 2-bit strategy updated entry `i` as `r₁` and `r₂` say, and every strategy was
scored. -/
structure BranchEffect (i : Nat) (taken : Bool) (r₁ : Scored B1Entry) (r₂ : Scored B2Entry) (s t : State) : Prop where
  b1At : ∀ j, t.b1At j = if j = i then r₁.entry else s.b1At j
  b2At : ∀ j, t.b2At j = if j = i then r₂.entry else s.b2At j
  counted : ∀ c, CountedUp s t c (branchCounts taken r₁.hit r₂.hit c)

theorem branchTaken_effect (i : Nat) (tgt : Addr) (s : State) :
    BranchEffect i true (b1Taken (s.b1At i) tgt) (b2Taken (s.b2At i) tgt) s (branchTaken i tgt s) :=
  ⟨branchTaken_b1At i tgt s, branchTaken_b2At i tgt s, branchTaken_countedUp i tgt s⟩

theorem branchNotTaken_effect (i : Nat) (nt : Addr) (s : State) :
    BranchEffect i false (b1NotTaken (s.b1At i) nt) (b2NotTaken (s.b2At i) nt) s (branchNotTaken i nt s) :=
  ⟨branchNotTaken_b1At i nt s, branchNotTaken_b2At i nt s, branchNotTaken_countedUp i nt s⟩

section
variable {i : Nat} {taken : Bool} {r₁ : Scored B1Entry} {r₂ : Scored B2Entry} {s t : State}

theorem BranchEffect.scoredHit {hit miss : Counter} (h : BranchEffect i taken r₁ r₂ s t)
    (hhit : branchCounts taken r₁.hit r₂.hit hit = 1) (hmiss : branchCounts taken r₁.hit r₂.hit miss = 0) :
    ScoredHit s t hit miss := ⟨hhit ▸ h.counted hit, (hmiss ▸ h.counted miss).ctr_eq⟩

theorem BranchEffect.scoredMiss {hit miss : Counter} (h : BranchEffect i taken r₁ r₂ s t)
    (hhit : branchCounts taken r₁.hit r₂.hit hit = 0) (hmiss : branchCounts taken r₁.hit r₂.hit miss = 1) :
    ScoredMiss s t hit miss := ⟨hmiss ▸ h.counted miss, (hhit ▸ h.counted hit).ctr_eq⟩

/-- The entries of other indices stay (20_memory.md R58). -/
theorem BranchEffect.other_entries (h : BranchEffect i taken r₁ r₂ s t) :
    ∀ j, j ≠ i → t.b1At j = s.b1At j ∧ t.b2At j = s.b2At j := fun j hj =>
  ⟨(h.b1At j).trans (if_neg hj), (h.b2At j).trans (if_neg hj)⟩

theorem BranchEffect.other_counters (h : BranchEffect i taken r₁ r₂ s t) :
    ∀ c ∈ [Counter.haz, .dmiss, .imiss, .unal, .dacc, .iacc], t.ctr c = s.ctr c := by
  have hzero : ∀ c ∈ [Counter.haz, .dmiss, .imiss, .unal, .dacc, .iacc],
      branchCounts taken r₁.hit r₂.hit c = 0 := by simp [branchCounts]
  intro c hc
  exact (hzero c hc ▸ h.counted c).ctr_eq

/-- A row of the 1-bit table that misses. -/
theorem BranchEffect.oneBit_miss {e : B1Entry} (h : BranchEffect i taken r₁ r₂ s t)
    (hrow : r₁ = { hit := false, entry := e }) : t.b1At i = e ∧ ScoredMiss s t .b1Hit .b1Miss := by
  subst hrow
  exact ⟨(h.b1At i).trans (if_pos rfl), h.scoredMiss rfl rfl⟩

/-- A row of the 1-bit table that hits. -/
theorem BranchEffect.oneBit_hit {e : B1Entry} (h : BranchEffect i taken r₁ r₂ s t)
    (hrow : r₁ = { hit := true, entry := e }) : t.b1At i = e ∧ ScoredHit s t .b1Hit .b1Miss := by
  subst hrow
  exact ⟨(h.b1At i).trans (if_pos rfl), h.scoredHit rfl rfl⟩

/-- A row of the 2-bit table that misses. -/
theorem BranchEffect.twoBit_miss {e : B2Entry} (h : BranchEffect i taken r₁ r₂ s t)
    (hrow : r₂ = { hit := false, entry := e }) : t.b2At i = e ∧ ScoredMiss s t .b2Hit .b2Miss := by
  subst hrow
  exact ⟨(h.b2At i).trans (if_pos rfl), h.scoredMiss rfl rfl⟩

/-- A row of the 2-bit table that hits. -/
theorem BranchEffect.twoBit_hit {e : B2Entry} (h : BranchEffect i taken r₁ r₂ s t)
    (hrow : r₂ = { hit := true, entry := e }) : t.b2At i = e ∧ ScoredHit s t .b2Hit .b2Miss := by
  subst hrow
  exact ⟨(h.b2At i).trans (if_pos rfl), h.scoredHit rfl rfl⟩

end

/-! ## BTAKEN and BNTAKEN on a ready block with no fault -/

theorem exec_btaken_running (pc tgt : Addr) {s : State} (hs : s.Running) :
    exec (.btaken pc tgt) s = .next (branchTaken (predictorIndex s.cfg.k pc) tgt (quiet s)) := by
  obtain ⟨hr, hf⟩ := hs
  rw [exec_btaken, whenRunning_running _ s hr hf]

theorem exec_bntaken_running (pc tgt : Addr) {s : State} (hs : s.Running) :
    exec (.bntaken pc tgt) s = .next (branchNotTaken (predictorIndex s.cfg.k pc) (fallThrough pc) (quiet s)) := by
  obtain ⟨hr, hf⟩ := hs
  rw [exec_bntaken, whenRunning_running _ s hr hf]

/-- Settles O40: always-taken hits, never-taken misses, and the other two strategies keep to the pc's entry. -/
theorem btakenResult : Obligations.BtakenResult := by
  intro pc tgt s hs
  have h := branchTaken_effect (predictorIndex s.cfg.k pc) tgt (quiet s)
  exact ⟨_, exec_btaken_running pc tgt hs, branchTaken_eq _ tgt (quiet s), branchTaken_targetAt _ tgt (quiet s),
    h.other_entries, h.scoredHit rfl rfl, h.scoredMiss rfl rfl, h.other_counters⟩

/-- Settles O41: always-taken misses, never-taken hits, and the other two strategies keep to the pc's entry. -/
theorem bntakenResult : Obligations.BntakenResult := by
  intro pc tgt s hs
  have h := branchNotTaken_effect (predictorIndex s.cfg.k pc) (fallThrough pc) (quiet s)
  exact ⟨_, exec_bntaken_running pc tgt hs, branchNotTaken_eq _ _ (quiet s), h.other_entries, h.scoredMiss rfl rfl,
    h.scoredHit rfl rfl, h.other_counters⟩

/-- Settles O42, row by row of R147. -/
theorem oneBitTransitions : Obligations.OneBitTransitions := by
  rintro pc tgt s e hs rfl
  have htaken := branchTaken_effect (predictorIndex s.cfg.k pc) tgt (quiet s)
  have hnot := branchNotTaken_effect (predictorIndex s.cfg.k pc) (fallThrough pc) (quiet s)
  refine ⟨⟨_, exec_btaken_running pc tgt hs, fun hst => ?flip, fun hst htgt => ?stale, fun hst htgt => ?hit⟩,
    ⟨_, exec_bntaken_running pc tgt hs, fun hst => ?flipBack, fun hst => ?hitNot⟩⟩
  case flip => exact htaken.oneBit_miss (by simp [b1Taken, hst])
  case stale => exact htaken.oneBit_miss (by simp [b1Taken, hst, htgt])
  case hit => exact htaken.oneBit_hit (by simp [b1Taken, hst, htgt])
  case flipBack => exact hnot.oneBit_miss (by simp [b1NotTaken, hst, fallThrough])
  case hitNot => exact hnot.oneBit_hit (by simp [b1NotTaken, hst])

/-- Settles O43, row by row of R147. -/
theorem twoBitTransitions : Obligations.TwoBitTransitions := by
  rintro pc tgt s e hs rfl
  have htaken := branchTaken_effect (predictorIndex s.cfg.k pc) tgt (quiet s)
  have hnot := branchNotTaken_effect (predictorIndex s.cfg.k pc) (fallThrough pc) (quiet s)
  refine ⟨⟨_, exec_btaken_running pc tgt hs, fun hst => ?collapse, fun hst htgt => ?weakStale,
      fun hst htgt => ?strongStale, fun hst htgt => ?hit⟩,
    ⟨_, exec_bntaken_running pc tgt hs, fun hst => ?collapseNot, fun hst htgt => ?weakStaleNot,
      fun hst htgt => ?strongStaleNot, fun hst htgt => ?hitNot⟩⟩
  case collapse => exact htaken.twoBit_miss (by rcases hst with hst | hst <;> simp [b2Taken, hst])
  case weakStale => exact htaken.twoBit_miss (by simp [b2Taken, hst, htgt])
  case strongStale => exact htaken.twoBit_miss (by simp [b2Taken, hst, htgt])
  case hit => exact htaken.twoBit_hit (by rcases hst with hst | hst <;> simp [b2Taken, hst, htgt])
  case collapseNot =>
    exact hnot.twoBit_miss (by rcases hst with hst | hst <;> simp [b2NotTaken, hst, fallThrough])
  case weakStaleNot => exact hnot.twoBit_miss (by simp [b2NotTaken, hst, htgt, fallThrough])
  case strongStaleNot => exact hnot.twoBit_miss (by simp [b2NotTaken, hst, htgt, fallThrough])
  case hitNot =>
    exact hnot.twoBit_hit (by rcases hst with hst | hst <;> simp [b2NotTaken, hst, htgt, fallThrough])

/-- Settles O44: the meaning of BNTAKEN does not mention its second operand. -/
theorem bntakenIgnoresItsTarget : Obligations.BntakenIgnoresItsTarget := by
  intro pc x y s
  rw [exec_bntaken, exec_bntaken]

/-! ## The bank's scores

Which of its two counters the 1-bit and the 2-bit strategy score in is not said here, so one increment of every counter
is kept beside what is known of it. No sum needs to be bounded until the increments are read off at the end. -/

/-- From `s` to `t` the bank's counters went up by `counts`, which is what `taken` BTAKENs and `notTaken` BNTAKENs score
(42_branch.md R140, R152). -/
structure BankScores (taken notTaken : Nat) (counts : Counter → Nat) (s t : State) : Prop where
  counted : ∀ c ∈ countersIn .branchPredictors, CountedUp s t c (counts c)
  atHit : counts .atHit = taken
  atMiss : counts .atMiss = notTaken
  ntHit : counts .ntHit = notTaken
  ntMiss : counts .ntMiss = taken
  oneBit : counts .b1Hit + counts .b1Miss = taken + notTaken
  twoBit : counts .b2Hit + counts .b2Miss = taken + notTaken

theorem BankScores.of_same {s t : State} (h : ∀ c ∈ countersIn .branchPredictors, t.ctr c = s.ctr c) :
    BankScores 0 0 0 s t :=
  ⟨fun c hc => .of_eq (h c hc), rfl, rfl, rfl, rfl, rfl, rfl⟩

theorem BankScores.trans {a b a' b' : Nat} {counts counts' : Counter → Nat} {s t u : State}
    (h : BankScores a b counts s t) (g : BankScores a' b' counts' t u) :
    BankScores (a + a') (b + b') (counts + counts') s u where
  counted c hc := (h.counted c hc).trans (g.counted c hc)
  atHit := congrArg₂ (· + ·) h.atHit g.atHit
  atMiss := congrArg₂ (· + ·) h.atMiss g.atMiss
  ntHit := congrArg₂ (· + ·) h.ntHit g.ntHit
  ntMiss := congrArg₂ (· + ·) h.ntMiss g.ntMiss
  oneBit := by have := h.oneBit; have := g.oneBit; simp only [Pi.add_apply]; omega
  twoBit := by have := h.twoBit; have := g.twoBit; simp only [Pi.add_apply]; omega

section
variable {a b : Nat} {counts : Counter → Nat} {s t : State}

theorem BankScores.le (h : BankScores a b counts s t) {c : Counter} (hc : c ∈ countersIn .branchPredictors) :
    counts c ≤ a + b := by
  obtain ⟨_, hatHit, hatMiss, hntHit, hntMiss, hb1, hb2⟩ := h
  simp only [countersIn, List.mem_cons, List.not_mem_nil, or_false] at hc
  rcases hc with rfl | rfl | rfl | rfl | rfl | rfl | rfl | rfl <;> omega

theorem BankScores.ctr (h : BankScores a b counts s t) (hroom : s.Headroom (a + b)) {c : Counter}
    (hc : c ∈ countersIn .branchPredictors) : (t.ctr c).toNat = (s.ctr c).toNat + counts c :=
  h.counted c hc ((Nat.add_le_add_left (h.le hc) _).trans_lt (hroom c))

/-- The scores as R152 (a) and (b) count them, while no sum passes 2^64 - 1. -/
theorem BankScores.exact (h : BankScores a b counts s t) (hroom : s.Headroom (a + b)) :
    (t.ctr .atHit).toNat = (s.ctr .atHit).toNat + a ∧
    (t.ctr .ntMiss).toNat = (s.ctr .ntMiss).toNat + a ∧
    (t.ctr .atMiss).toNat = (s.ctr .atMiss).toNat + b ∧
    (t.ctr .ntHit).toNat = (s.ctr .ntHit).toNat + b ∧
    (t.ctr .b1Hit).toNat + (t.ctr .b1Miss).toNat = (s.ctr .b1Hit).toNat + (s.ctr .b1Miss).toNat + a + b ∧
    (t.ctr .b2Hit).toNat + (t.ctr .b2Miss).toNat = (s.ctr .b2Hit).toNat + (s.ctr .b2Miss).toNat + a + b := by
  refine ⟨?_, ?_, ?_, ?_, ?oneBit, ?twoBit⟩
  · rw [h.ctr hroom (by decide), h.atHit]
  · rw [h.ctr hroom (by decide), h.ntMiss]
  · rw [h.ctr hroom (by decide), h.atMiss]
  · rw [h.ctr hroom (by decide), h.ntHit]
  case oneBit =>
    have := h.oneBit
    rw [h.ctr hroom (by decide), h.ctr hroom (by decide)]
    omega
  case twoBit =>
    have := h.twoBit
    rw [h.ctr hroom (by decide), h.ctr hroom (by decide)]
    omega

/-- A balanced ready block stays balanced as its branches are scored. -/
theorem BankScores.balanced (h : BankScores a b counts s t) (hroom : s.Headroom (a + b))
    (hready : t.status.ready = s.status.ready) (hs : s.ScoresBalanced) : t.ScoresBalanced := by
  intro hr
  obtain ⟨hat, hnt, hs1, hs2⟩ := hs (hready ▸ hr)
  obtain ⟨hatHit, hntMiss, hatMiss, hntHit, hb1, hb2⟩ := h.exact hroom
  refine ⟨BitVec.eq_of_toNat_eq ?_, BitVec.eq_of_toNat_eq ?_, ?_, ?_⟩
  · rw [hatHit, hntMiss, hat]
  · rw [hatMiss, hntHit, hnt]
  · omega
  · omega

end

/-! ## The score of one command -/

theorem toNat_add_toNat_not (b : Bool) : b.toNat + (!b).toNat = 1 := by cases b <;> rfl

theorem BranchEffect.bankScores {i : Nat} {taken : Bool} {r₁ : Scored B1Entry} {r₂ : Scored B2Entry} {s t : State}
    (h : BranchEffect i taken r₁ r₂ s t) :
    BankScores taken.toNat (!taken).toNat (branchCounts taken r₁.hit r₂.hit) s t where
  counted c _ := h.counted c
  atHit := rfl
  atMiss := rfl
  ntHit := rfl
  ntMiss := rfl
  oneBit := (toNat_add_toNat_not _).trans (toNat_add_toNat_not _).symm
  twoBit := (toNat_add_toNat_not _).trans (toNat_add_toNat_not _).symm

/-- The bank's counters belong to the branch commands (10_state.md R31). -/
theorem bank_not_mem_countersOf {i : Instr} (hi : i ≠ .reset) (hk : componentOf i ≠ some .branchPredictors) :
    ∀ c ∈ countersIn .branchPredictors, c ∉ countersOf i := by
  cases i with
  | reset => exact absurd rfl hi
  | btaken | bntaken => exact absurd rfl hk
  | record | check | dread | dwrite | ifetch | rdctr | rdstat => simp [countersIn, countersOf]

theorem effectOf_bankScores {i : Instr} (hi : i ≠ .reset) (s : State) :
    ∃ counts, BankScores (takenIn [i]) (notTakenIn [i]) counts s (effectOf i s) := by
  by_cases hk : componentOf i = some .branchPredictors
  · rcases eq_of_component_branchPredictors hk with ⟨pc, tgt, rfl⟩ | ⟨pc, tgt, rfl⟩
    · exact ⟨_, (branchTaken_effect _ tgt s).bankScores⟩
    · exact ⟨_, (branchNotTaken_effect _ _ s).bankScores⟩
  · have hsame : BankScores 0 0 0 s (effectOf i s) :=
      .of_same fun c hc => effectOf_ctr_other i s (bank_not_mem_countersOf hi hk c hc)
    cases i with
    | btaken | bntaken => exact absurd rfl hk
    | reset | record | check | dread | dwrite | ifetch | rdctr | rdstat => exact ⟨0, hsame⟩

theorem takenIn_cons (i : Instr) (l : List Instr) : takenIn (i :: l) = takenIn [i] + takenIn l := by
  cases i with
  | btaken => exact Nat.add_comm _ _
  | _ => exact (Nat.zero_add _).symm

theorem notTakenIn_cons (i : Instr) (l : List Instr) : notTakenIn (i :: l) = notTakenIn [i] + notTakenIn l := by
  cases i with
  | bntaken => exact Nat.add_comm _ _
  | _ => exact (Nat.zero_add _).symm

theorem takenIn_add_notTakenIn_le (l : List Instr) : takenIn l + notTakenIn l ≤ l.length := by
  induction l with
  | nil => exact Nat.le_refl 0
  | cons i l ih =>
    rw [List.length_cons]
    cases i with
    | btaken | bntaken => simp only [takenIn, notTakenIn]; omega
    | _ => exact Nat.le_succ_of_le ih

theorem takenIn_add_notTakenIn_of_branch {i : Instr} (hk : componentOf i = some .branchPredictors) :
    takenIn [i] + notTakenIn [i] = 1 := by
  rcases eq_of_component_branchPredictors hk with ⟨pc, tgt, rfl⟩ | ⟨pc, tgt, rfl⟩ <;> rfl

theorem wellFormed_of_branch {i : Instr} (hk : componentOf i = some .branchPredictors) : i.wellFormed = true := by
  rcases eq_of_component_branchPredictors hk with ⟨pc, tgt, rfl⟩ | ⟨pc, tgt, rfl⟩ <;> rfl

/-- Settles O45: the hit and the miss counter of a strategy go up by 1 together. -/
theorem eachStrategyIsScoredOnce : Obligations.EachStrategyIsScoredOnce := by
  intro pc tgt s hs hroom i hi
  obtain ⟨hr, hf⟩ := hs
  have hk : componentOf i = some .branchPredictors := by
    rcases List.mem_pair.mp hi with rfl | rfl <;> rfl
  have hone := takenIn_add_notTakenIn_of_branch hk
  obtain ⟨counts, h⟩ := effectOf_bankScores (ne_reset_of_component hk) (quiet s)
  obtain ⟨hatHit, hntMiss, hatMiss, hntHit, hb1, hb2⟩ := h.exact (hone ▸ hroom)
  refine ⟨effectOf i (quiet s), by rw [exec_component (wellFormed_of_branch hk) hk, whenRunning_running _ s hr hf],
    ?_⟩
  simp only [quiet_ctr] at hatHit hntMiss hatMiss hntHit hb1 hb2
  omega

/-! ## The balance of the scores -/

theorem initialise_scoresBalanced (s : State) : (initialise s).ScoresBalanced := by
  have hzero : ∀ c, (initialise s).ctr c = 0#64 := Counters.get_ofFn _
  simp [State.ScoresBalanced, hzero]

theorem SameBlock.scoresBalanced {s t : State} (h : SameBlock s t) (hs : s.ScoresBalanced) : t.ScoresBalanced := by
  simpa only [State.ScoresBalanced, h.ctr, h.ready] using hs

theorem exec_keeps_scoresBalanced {i : Instr} {s t : State} (e : exec i s = .next t) (hroom : s.Headroom 1)
    (hs : s.ScoresBalanced) : t.ScoresBalanced := by
  by_cases hi : i = .reset
  · subst hi
    injection e with e
    exact e ▸ initialise_scoresBalanced (quiet s)
  · have hready := exec_ready e hi
    rcases exec_acts_or_sameBlock e with rfl | h
    · obtain ⟨counts, h⟩ := effectOf_bankScores hi (quiet s)
      have hone := takenIn_add_notTakenIn_le [i]
      exact h.balanced (fun c => (Nat.add_le_add_left hone _).trans_lt (hroom c)) hready hs
    · exact h.scoresBalanced hs

/-- Settles O48: a command scores every strategy alike, RESET zeroes the scores, `rst` leaves the block not ready, and
any other step leaves the scores. -/
theorem everyStepKeepsTheScoresBalanced : Obligations.EveryStepKeepsTheScoresBalanced := by
  intro s t hs hroom e
  rcases step_cases e with ⟨_, rfl⟩ | ⟨l, _, rfl⟩ | ⟨w, l, _, _, rfl⟩ | ⟨w, l, _, _, rfl⟩ | ⟨w, l, i, _, _, hexec⟩
  · exact hs
  · intro hr
    cases hr
  · exact (raise_sameBlock _ (quiet_sameBlock { s with inputs := l })).scoresBalanced hs
  · exact (raise_sameBlock _ (quiet_sameBlock { s with inputs := l })).scoresBalanced hs
  · exact exec_keeps_scoresBalanced (s := { s with inputs := l }) hexec hroom hs

/-! ## The scores of a stream -/

/-- The first command of a paired stream without RESET acts, and leaves the block running and facing the rest. -/
theorem step_of_paired {s : State} {i : Instr} {l : List Instr} (hs : s.Running)
    (hp : paired s.status.armed (i :: l) = true) (hi : i ≠ .reset) (hin : s.inputs = presented (i :: l)) :
    ∃ t, step s = .next t ∧ t.Running ∧ paired t.status.armed l = true ∧ t.inputs = presented l ∧
      ∃ counts, BankScores (takenIn [i]) (notTakenIn [i]) counts s t := by
  have hw := wellFormed_of_paired hp
  obtain ⟨rsp, hexec⟩ := exec_running hw (s := { s with inputs := presented l }) hs
  obtain ⟨hrun, hpaired⟩ := effectOf_keeps_paired (s := quiet { s with inputs := presented l }) hs hi hp
  obtain ⟨counts, hcounts⟩ := effectOf_bankScores hi (quiet { s with inputs := presented l })
  exact ⟨_, (step_encode hw hin).trans hexec, hrun, hpaired, by simp, counts,
    { hcounts with counted := hcounts.counted }⟩

theorem run_bankScores {s : State} {l : List Instr} (hs : s.Running) (hp : paired s.status.armed l = true)
    (hreset : Instr.reset ∉ l) (hin : s.inputs = presented l) :
    ∃ t counts, Sys2Proof.core.run l.length s = .next t ∧ BankScores (takenIn l) (notTakenIn l) counts s t := by
  induction l generalizing s with
  | nil => exact ⟨s, 0, rfl, .of_same fun _ _ => rfl⟩
  | cons i l ih =>
    obtain ⟨hi, hl⟩ := List.ne_and_not_mem_of_not_mem_cons hreset
    obtain ⟨u, hstep, hurun, hup, huin, first, hfirst⟩ := step_of_paired hs hp hi.symm hin
    obtain ⟨t, rest, hrun, hrest⟩ := ih hurun hup hl huin
    rw [takenIn_cons, notTakenIn_cons]
    exact ⟨t, first + rest, (run_succ _ hstep).trans hrun, hfirst.trans hrest⟩

/-- Settles O46: the scores of the stream's commands add up, and no command scores a strategy twice. -/
theorem scoresCountTheBranches : Obligations.ScoresCountTheBranches := by
  intro s l hs hp hreset hin hroom
  obtain ⟨t, counts, hrun, h⟩ := run_bankScores hs hp hreset hin
  have hle := takenIn_add_notTakenIn_le l
  exact ⟨t, hrun, h.exact fun c => (Nat.add_le_add_left hle _).trans_lt (hroom c)⟩

/-! ## One branch with one taken target -/

/-- The entries that a branch with the taken target `tgt` and the fall-through `nt` can have when it began at the reset
value: the two strategies agree on the direction, and while it is taken on the target. -/
inductive Tied (tgt nt : Addr) : B1Entry → B2Entry → Prop
  | strongTaken (a : Addr) : Tied tgt nt { state := .taken, target := a } { state := .stronglyTaken, target := a }
  | weakTaken : Tied tgt nt { state := .taken, target := tgt } { state := .weaklyTaken, target := tgt }
  | weakNotTaken (a : Addr) : Tied tgt nt { state := .notTaken, target := a } { state := .weaklyNotTaken, target := nt }
  | strongNotTaken (a : Addr) :
    Tied tgt nt { state := .notTaken, target := a } { state := .stronglyNotTaken, target := nt }

/-- Two updates score alike and leave tied entries. -/
def TiedUpdates (tgt nt : Addr) (r₁ : Scored B1Entry) (r₂ : Scored B2Entry) : Prop :=
  r₁.hit = r₂.hit ∧ Tied tgt nt r₁.entry r₂.entry

theorem Tied.taken {tgt nt : Addr} {e₁ : B1Entry} {e₂ : B2Entry} (h : Tied tgt nt e₁ e₂) :
    TiedUpdates tgt nt (b1Taken e₁ tgt) (b2Taken e₂ tgt) := by
  cases h with
  | strongTaken a =>
    by_cases ha : a = tgt
    · simpa [TiedUpdates, b1Taken, b2Taken, ha] using Tied.strongTaken tgt
    · simpa [TiedUpdates, b1Taken, b2Taken, ha] using Tied.weakTaken
  | weakTaken => simpa [TiedUpdates, b1Taken, b2Taken] using Tied.strongTaken tgt
  | weakNotTaken a => exact ⟨rfl, .weakTaken⟩
  | strongNotTaken a => exact ⟨rfl, .weakTaken⟩

theorem Tied.notTaken {tgt nt : Addr} {e₁ : B1Entry} {e₂ : B2Entry} (h : Tied tgt nt e₁ e₂) :
    TiedUpdates tgt nt (b1NotTaken e₁ nt) (b2NotTaken e₂ nt) := by
  cases h with
  | strongTaken a => exact ⟨rfl, .weakNotTaken nt⟩
  | weakTaken => exact ⟨rfl, .weakNotTaken nt⟩
  | weakNotTaken a => simpa [TiedUpdates, b1NotTaken, b2NotTaken] using Tied.strongNotTaken a
  | strongNotTaken a => simpa [TiedUpdates, b1NotTaken, b2NotTaken] using Tied.strongNotTaken a

/-- The command is of the branch at `pc` with the taken target `tgt`. BNTAKEN's second operand is ignored
(42_branch.md R149). -/
def BranchOf (pc tgt : Addr) (i : Instr) : Prop := i = .btaken pc tgt ∨ ∃ x, i = .bntaken pc x

theorem BranchOf.component {pc tgt : Addr} {i : Instr} (h : BranchOf pc tgt i) :
    componentOf i = some .branchPredictors := by
  rcases h with rfl | ⟨x, rfl⟩ <;> rfl

/-- The entries of `pc` are tied. -/
def TiedAt (pc tgt : Addr) (s : State) : Prop :=
  Tied tgt (fallThrough pc) (s.b1At (predictorIndex s.cfg.k pc)) (s.b2At (predictorIndex s.cfg.k pc))

/-- The block faces the stream of one branch whose entries are tied. -/
structure FacingOneBranch (pc tgt : Addr) (s : State) (l : List Instr) : Prop where
  running : s.Running
  tied : TiedAt pc tgt s
  commands : ∀ i ∈ l, BranchOf pc tgt i
  inputs : s.inputs = presented l

/-- The two strategies missed equally often from `s` to `t`, at most `n` times. -/
def MissedAlike (n : Nat) (s t : State) : Prop :=
  ∃ m ≤ n, CountedUp s t .b1Miss m ∧ CountedUp s t .b2Miss m

theorem BranchEffect.tied {i : Nat} {taken : Bool} {r₁ : Scored B1Entry} {r₂ : Scored B2Entry} {tgt nt : Addr}
    {s t : State} (h : BranchEffect i taken r₁ r₂ s t) (hr : TiedUpdates tgt nt r₁ r₂) :
    Tied tgt nt (t.b1At i) (t.b2At i) ∧ MissedAlike 1 s t := by
  obtain ⟨hhit, htied⟩ := hr
  rw [h.b1At, h.b2At, if_pos rfl, if_pos rfl]
  refine ⟨htied, (!r₁.hit).toNat, Bool.toNat_le _, h.counted .b1Miss, ?_⟩
  rw [hhit]
  exact h.counted .b2Miss

/-- A command of the branch scores both strategies alike and keeps its entries tied. -/
theorem effectOf_tied {pc tgt : Addr} {i : Instr} (hi : BranchOf pc tgt i) {s : State}
    (h : TiedAt pc tgt s) : TiedAt pc tgt (effectOf i s) ∧ MissedAlike 1 s (effectOf i s) := by
  rw [TiedAt, effectOf_cfg]
  rcases hi with rfl | ⟨x, rfl⟩
  · exact (branchTaken_effect _ tgt s).tied h.taken
  · exact (branchNotTaken_effect _ _ s).tied h.notTaken

/-- The first command scores both strategies alike and leaves the block facing the rest of the stream. -/
theorem FacingOneBranch.step {pc tgt : Addr} {s : State} {i : Instr} {l : List Instr}
    (h : FacingOneBranch pc tgt s (i :: l)) :
    ∃ t, step s = .next t ∧ FacingOneBranch pc tgt t l ∧ MissedAlike 1 s t := by
  obtain ⟨hi, hl⟩ := List.forall_mem_cons.mp h.commands
  have hk := hi.component
  have hstep : Machine.step s = .next (afterWord i (presented l) s) :=
    step_acts h.running (wellFormed_of_branch hk) hk h.inputs
  have hstatus : (afterWord i (presented l) s).status = s.status :=
    effectOf_status_other (ne_reset_of_component hk) (by simp [hk]) _
  obtain ⟨htied, hmissed⟩ := effectOf_tied hi (s := quiet { s with inputs := presented l }) h.tied
  exact ⟨_, hstep, ⟨by simpa only [State.Running, hstatus] using h.running, htied, hl, by simp [afterWord]⟩, hmissed⟩

theorem MissedAlike.trans {m n : Nat} {s t u : State} (h : MissedAlike m s t) (g : MissedAlike n t u) :
    MissedAlike (m + n) s u := by
  obtain ⟨a, ha, h1, h2⟩ := h
  obtain ⟨b, hb, g1, g2⟩ := g
  exact ⟨a + b, Nat.add_le_add ha hb, h1.trans g1, h2.trans g2⟩

theorem FacingOneBranch.run {pc tgt : Addr} {s : State} {l : List Instr} (h : FacingOneBranch pc tgt s l) :
    ∃ t, Sys2Proof.core.run l.length s = .next t ∧ MissedAlike l.length s t := by
  induction l generalizing s with
  | nil => exact ⟨s, rfl, 0, Nat.le_refl 0, .of_eq rfl, .of_eq rfl⟩
  | cons i l ih =>
    obtain ⟨u, hstep, hu, hfirst⟩ := h.step
    obtain ⟨t, hrun, hrest⟩ := ih hu
    refine ⟨t, (run_succ _ hstep).trans hrun, ?_⟩
    rw [List.length_cons, Nat.add_comm]
    exact hfirst.trans hrest

/-- Settles O47: RESET leaves tied entries, and the counts start from 0. -/
theorem twoBitTiesWithOneBitOnOneBranch : Obligations.TwoBitTiesWithOneBitOnOneBranch := by
  intro cfg pc tgt l hlen hl
  have h : FacingOneBranch pc tgt { State.afterReset cfg with inputs := presented l } l :=
    ⟨⟨rfl, rfl⟩, .strongTaken cfg.tgtReset, hl, rfl⟩
  obtain ⟨t, hrun, m, hm, hb1, hb2⟩ := h.run
  have hzero : ∀ c, ({ State.afterReset cfg with inputs := presented l } : State).ctr c = 0#64 := fun c => by
    cases c <;> rfl
  simp only [CountedUp, hzero, BitVec.toNat_zero, Nat.zero_add] at hb1 hb2
  have hlt := hm.trans_lt hlen
  exact ⟨t, hrun, BitVec.eq_of_toNat_eq ((hb2 hlt).trans (hb1 hlt).symm)⟩

end Sys2Proof.Machine
end

section
/-! PROOFS. The control operations (43_control.md): RDCTR and RDSTAT on the response port. -/

namespace Sys2Proof.Machine

/-! ## The status register as a number -/

/-- A field put above `n` bits weighs `2 ^ n`. -/
theorem toNat_append_eq_add {m n : Nat} (x : BitVec m) (y : BitVec n) :
    (x ++ y).toNat = 2 ^ n * x.toNat + y.toNat := by
  rw [BitVec.toNat_append, Nat.shiftLeft_eq, Nat.mul_comm, Nat.two_pow_add_eq_or_of_lt y.isLt]

/-- The three fields of `status[5:0]` at their weights (10_state.md R33). -/
theorem word_toNat (t : Status) :
    t.word.toNat = 32 * t.armed.toNat + 16 * t.ready.toNat + (FaultCode.code t.fault).toNat := by
  rw [Status.word, toNat_append_eq_add, toNat_append_eq_add, BitVec.toNat_ofBool, BitVec.toNat_ofBool]
  omega

/-- The zero extension keeps the number. -/
theorem response_toNat (t : Status) : t.response.toNat = t.word.toNat :=
  BitVec.toNat_setWidth_of_le (by decide)

/-! ## RDCTR and RDSTAT -/

/-- Settles O51: on a ready block RDCTR takes the branch that responds, whatever the latch holds. -/
theorem rdctrResult : Obligations.RdctrResult := by
  intro c s hr
  rw [exec_rdctr, if_neg (by simp [hr])]
  rfl

/-- Settles O53: the response is the status word, zero-extended. -/
theorem rdstatResult : Obligations.RdstatResult := fun s =>
  ⟨s.status.response, exec_rdstat s, (response_toNat s.status).trans (word_toNat s.status)⟩

end Sys2Proof.Machine
end

section
/-! PROOFS. Faults (60_exceptions.md): what raises which code (R173 to R179), what a latched fault freezes (R177), and
that a faulting step changes nothing but the latch (R172). -/

namespace Sys2Proof.Machine

/-! ## Steps by what the next word decodes to -/

/-- Settles O5: the equation of a step at a word that decodes. -/
theorem stepRunsTheDecodedCommand : Obligations.StepRunsTheDecodedCommand := fun _ _ _ _ hs hw =>
  step_of_decode hs hw

theorem step_of_illegalOpcode {s : State} {w : CmdWord} {l : List Input} (hs : s.inputs = .cmd w :: l)
    (hw : decode w = .illegalOpcode) : step s = .next (raise .illegalOpcode (quiet { s with inputs := l })) := by
  rw [step_cmd hs, acceptWord, hw]

theorem step_of_illegalOperand {s : State} {w : CmdWord} {l : List Input} (hs : s.inputs = .cmd w :: l)
    (hw : decode w = .illegalOperand) : step s = .next (raise .illegalOperand (quiet { s with inputs := l })) := by
  rw [step_cmd hs, acceptWord, hw]

/-- Settles O12: every event is answered, a command because its meaning is total. -/
theorem everyStepAnswersANextState : Obligations.EveryStepAnswersANextState := by
  intro s
  rcases hs : s.inputs with _ | ⟨w | _, l⟩
  case nil => exact ⟨_, step_idle hs⟩
  case cons.rst => exact ⟨_, step_rst hs⟩
  case cons.cmd =>
    cases hw : decode w with
    | illegalOpcode => exact ⟨_, step_of_illegalOpcode hs hw⟩
    | illegalOperand => exact ⟨_, step_of_illegalOperand hs hw⟩
    | cmd i =>
      rw [step_of_decode hs hw]
      exact exec_eq_next i _

theorem wellFormed_of_decode {w : CmdWord} {i : Instr} (hw : decode w = .cmd i) : i.wellFormed = true := by
  obtain ⟨hi, _⟩ := encodeOfDecodeIsTheWord w i hw
  exact hi

theorem takeInput_of_cons {s : State} {e : Input} {l : List Input} (hs : s.inputs = e :: l) :
    takeInput s = { s with inputs := l } := by
  rw [takeInput, hs, List.tail_cons]

/-! ## The latch -/

theorem raise_eq (code : FaultCode) (s : State) :
    raise code s = { s with
      status := { s.status with fault := if s.status.fault = .none then code else s.status.fault } } := by
  by_cases hf : s.status.fault = .none
  · rw [raise_of_no_fault code hf, if_pos hf]
  · rw [raise, latch_of_some code hf, if_neg hf]

/-- A latch that holds a code keeps it (60_exceptions.md R171). -/
theorem raise_of_fault (code : FaultCode) {s : State} (hf : s.status.fault ≠ .none) : raise code s = s := by
  rw [raise, latch_of_some code hf]

/-- Settles O6: both decoding faults are raised before anything else is looked at. -/
theorem illegalWordOnlyLatchesItsCode : Obligations.IllegalWordOnlyLatchesItsCode := by
  intro s w rest hs
  refine ⟨fun hw => ?_, fun hw => ?_⟩
  · rw [step_of_illegalOpcode hs hw, raise_eq]
    rfl
  · rw [step_of_illegalOperand hs hw, raise_eq]
    rfl

/-! ## The commands by what they do under a fault -/

/-- RESET acts in every state, RDSTAT and RDCTR read the block out, and the other commands are component commands,
under the common precondition. -/
theorem eq_reset_or_readout_or_component (i : Instr) :
    i = .reset ∨ i = .rdstat ∨ (∃ c, i = .rdctr c) ∨ ∃ k, componentOf i = some k := by
  cases i <;> simp [componentOf]

/-- The frozen commands (60_exceptions.md R177) are the component commands. -/
theorem frozenByFault_iff (i : Instr) : frozenByFault i = true ↔ ∃ k, componentOf i = some k := by
  cases i <;> simp [frozenByFault, componentOf]

/-- RDCTR before the first RESET draws the value it responds with (60_exceptions.md R176; logs 8, 9). -/
theorem exec_rdctr_notReady (c : Counter) {s : State} (hr : s.status.ready = false) :
    exec (.rdctr c) s = .next { raise .notReady s with
      rsp := some (Config.freeResponse s.draws), draws := s.draws + 1 } := by
  rw [exec_rdctr, if_pos hr]
  rfl

/-! ## While a fault is latched -/

/-- A latched fault freezes a command under the common precondition, on a block that is not ready too, where
NOT_READY is raised into a full latch. -/
theorem whenRunning_of_fault (act : State → State) {s : State} (hf : s.status.fault ≠ .none) :
    whenRunning act s = quiet s := by
  rcases whenRunning_cases act s with ⟨_, e⟩ | ⟨_, _, e⟩ | ⟨_, hnone, _⟩
  · rw [e, raise_of_fault _ (s := quiet s) hf]
  · exact e
  · exact absurd hnone hf

theorem exec_component_of_fault {i : Instr} {k : Component} (hi : i.wellFormed = true)
    (hk : componentOf i = some k) {s : State} (hf : s.status.fault ≠ .none) : exec i s = .next (quiet s) := by
  rw [exec_component hi hk, whenRunning_of_fault _ hf]

/-- Settles O14: the frozen commands are component commands, and the freeze leaves the port quiet. -/
theorem frozenCommandsDoNothing : Obligations.FrozenCommandsDoNothing := by
  intro i s hi hfrozen hf
  obtain ⟨k, hk⟩ := (frozenByFault_iff i).mp hfrozen
  exact exec_component_of_fault hi hk hf

/-- While a fault is latched, no command but RESET changes anything but the response port and the draw counter
(60_exceptions.md R171, R177). -/
theorem exec_of_fault {i : Instr} (hi : i.wellFormed = true) (hreset : i ≠ .reset) {s : State}
    (hf : s.status.fault ≠ .none) : ∃ rsp draws, exec i s = .next { s with rsp := rsp, draws := draws } := by
  rcases eq_reset_or_readout_or_component i with rfl | rfl | ⟨c, rfl⟩ | ⟨k, hk⟩
  · exact absurd rfl hreset
  · exact ⟨_, _, exec_rdstat s⟩
  · rcases Bool.eq_false_or_eq_true s.status.ready with hr | hr
    · exact ⟨_, _, rdctrResult c s hr⟩
    · rw [exec_rdctr_notReady c hr, raise_of_fault _ hf]
      exact ⟨_, _, rfl⟩
  · exact ⟨_, _, exec_component_of_fault hi hk hf⟩

/-- Settles O13: neither waiting, nor an illegal word, nor a command other than RESET changes a block that holds a
fault. -/
theorem latchedFaultFreezesTheBlock : Obligations.LatchedFaultFreezesTheBlock := by
  intro s t hf e hrst hreset
  rcases step_cases e with ⟨_, rfl⟩ | ⟨l, hl, _⟩ | ⟨w, l, hl, _, rfl⟩ | ⟨w, l, hl, _, rfl⟩ | ⟨w, l, i, hl, hd, hex⟩
  · rfl
  · exact absurd hl (hrst l)
  · rw [← takeInput_of_cons hl, raise_of_fault _ (s := quiet (takeInput s)) hf]
    rfl
  · rw [← takeInput_of_cons hl, raise_of_fault _ (s := quiet (takeInput s)) hf]
    rfl
  · have hi : i ≠ .reset := fun hi => hreset w l hl (hi ▸ hd)
    rw [← takeInput_of_cons hl] at hex
    obtain ⟨rsp, draws, h⟩ := exec_of_fault (wellFormed_of_decode hd) hi (s := takeInput s) hf
    obtain rfl : _ = t := Host.Outcome.next.inj (h.symm.trans hex)
    rfl

/-! ## Before the first RESET -/

/-- Every command but RESET and RDSTAT raises NOT_READY, and only RDCTR responds (60_exceptions.md R175, R176). -/
theorem exec_notReady {i : Instr} (hi : i.wellFormed = true) (hreset : i ≠ .reset) (hrdstat : i ≠ .rdstat) {s : State}
    (hr : s.status.ready = false) :
    ∃ rsp draws, exec i s = .next { raise .notReady s with rsp := rsp, draws := draws } ∧
      (frozenByFault i = true → rsp = none) := by
  rcases eq_reset_or_readout_or_component i with rfl | rfl | ⟨c, rfl⟩ | ⟨k, hk⟩
  · exact absurd rfl hreset
  · exact absurd rfl hrdstat
  · exact ⟨_, _, exec_rdctr_notReady c hr, fun h => by cases h⟩
  · refine ⟨none, s.draws, ?_, fun _ => rfl⟩
    rw [exec_component hi hk, whenRunning_notReady _ s hr]
    rfl

/-- Settles O15: the raise of NOT_READY, with the latch written out. -/
theorem notReadyCommandsRaiseNotReady : Obligations.NotReadyCommandsRaiseNotReady := by
  intro i s hi hreset hrdstat hr
  obtain ⟨rsp, draws, hexec, hrsp⟩ := exec_notReady hi hreset hrdstat hr
  exact ⟨_, hexec, by rw [raise_eq], hrsp⟩

/-- Settles O16: the value is the free one that RDCTR draws. -/
theorem rdctrBeforeResetRespondsAndFaults : Obligations.RdctrBeforeResetRespondsAndFaults := by
  intro c s hr
  refine ⟨Config.freeResponse s.draws, ?_⟩
  rw [exec_rdctr_notReady c hr, raise_eq]

/-! ## What a command latches -/

/-- Beside NOT_READY only the HazardTracker's commands raise a fault (60_exceptions.md R178). -/
theorem latchedBy_ready_other {i : Instr} (hk : componentOf i ≠ some .hazardTracker) (armed : Bool) :
    latchedBy (.cmd i) true armed = .none := by
  cases i with
  | record | check => exact absurd rfl hk
  | reset | dread | dwrite | ifetch | btaken | bntaken | rdctr | rdstat => rfl

theorem latchedBy_notReady {i : Instr} (hreset : i ≠ .reset) (hrdstat : i ≠ .rdstat) (armed : Bool) :
    latchedBy (.cmd i) false armed = .notReady := by
  cases i with
  | reset => exact absurd rfl hreset
  | rdstat => exact absurd rfl hrdstat
  | record | check | dread | dwrite | ifetch | btaken | bntaken | rdctr => rfl

/-- On a block with no fault a command's own effect raises the protocol fault that the priority names and nothing else,
or it latches none (40_hazard.md R110, R111; 60_exceptions.md R178). -/
theorem effectOf_raises_or_no_fault (i : Instr) {s : State} (hf : s.status.fault = .none) :
    effectOf i s = raise (latchedBy (.cmd i) true s.status.armed) s ∨
      (latchedBy (.cmd i) true s.status.armed = .none ∧ (effectOf i s).status.fault = .none) := by
  by_cases hk : componentOf i = some .hazardTracker
  · rcases eq_of_component_hazardTracker hk with ⟨d, a, b, k, rfl⟩ | rfl
    · rcases Bool.eq_false_or_eq_true s.status.armed with harmed | harmed <;> rw [harmed]
      · exact .inl (record_armed d a b k harmed)
      · exact .inr ⟨rfl, by simpa [effectOf, record_unarmed d a b k harmed] using hf⟩
    · rcases Bool.eq_false_or_eq_true s.status.armed with harmed | harmed <;> rw [harmed]
      · exact .inr ⟨rfl, by simpa [effectOf, check_armed harmed] using hf⟩
      · exact .inl (check_unarmed harmed)
  · refine .inr ⟨latchedBy_ready_other hk _, ?_⟩
    rcases eq_or_ne i .reset with rfl | hreset
    · rfl
    · rw [effectOf_status_other hreset hk, hf]

theorem effectOf_fault (i : Instr) {s : State} (hf : s.status.fault = .none) :
    (effectOf i s).status.fault = latchedBy (.cmd i) true s.status.armed := by
  rcases effectOf_raises_or_no_fault i hf with e | ⟨hnone, hfault⟩
  · rw [e, raise_of_no_fault _ hf]
  · rw [hnone, hfault]

theorem exec_fault {i : Instr} {s t : State} (hi : i.wellFormed = true) (hf : s.status.fault = .none)
    (e : exec i s = .next t) : t.status.fault = latchedBy (.cmd i) s.status.ready s.status.armed := by
  rcases Bool.eq_false_or_eq_true s.status.ready with hr | hr
  · obtain ⟨rsp, h⟩ := exec_running hi ⟨hr, hf⟩
    obtain rfl : _ = t := Host.Outcome.next.inj (h.symm.trans e)
    rw [hr]
    exact effectOf_fault i (s := quiet s) hf
  · rcases eq_or_ne i .reset with rfl | hreset
    · obtain rfl : _ = t := Host.Outcome.next.inj e
      rfl
    rcases eq_or_ne i .rdstat with rfl | hrdstat
    · obtain rfl : _ = t := Host.Outcome.next.inj e
      exact hf
    obtain ⟨rsp, draws, h, _⟩ := exec_notReady hi hreset hrdstat hr
    obtain rfl : _ = t := Host.Outcome.next.inj (h.symm.trans e)
    rw [hr, latchedBy_notReady hreset hrdstat, raise_of_no_fault _ hf]

/-- Settles O17: the decoding faults come first, then what the command itself latches. -/
theorem latchedCodeFollowsThePriority : Obligations.LatchedCodeFollowsThePriority := by
  intro s t w rest hs hf e
  cases hw : decode w with
  | illegalOpcode =>
    obtain rfl : _ = t := Host.Outcome.next.inj ((step_of_illegalOpcode hs hw).symm.trans e)
    simp [latch_fault, hf, latchedBy]
  | illegalOperand =>
    obtain rfl : _ = t := Host.Outcome.next.inj ((step_of_illegalOperand hs hw).symm.trans e)
    simp [latch_fault, hf, latchedBy]
  | cmd i =>
    rw [step_of_decode hs hw] at e
    exact exec_fault (s := { s with inputs := rest }) (wellFormed_of_decode hw) hf e

/-! ## What a faulting step changes -/

theorem SameBlock.eq {s t : State} (h : SameBlock s t) :
    t = { s with status := { s.status with fault := t.status.fault }, rsp := t.rsp, draws := t.draws } := by
  obtain ⟨_, _, _, rfl⟩ := h
  rfl

theorem exec_faulting_sameBlock {i : Instr} {s t : State} (e : exec i s = .next t) (hf : s.status.fault = .none)
    (hfault : t.status.fault ≠ .none) : SameBlock s t := by
  rcases exec_acts_or_sameBlock e with rfl | h
  · rcases effectOf_raises_or_no_fault i (s := quiet s) hf with e | ⟨_, hnone⟩
    · rw [e]
      exact raise_sameBlock _ (quiet_sameBlock s)
    · exact absurd hnone hfault
  · exact h

/-- Settles O18: waiting and the hardware reset latch nothing, and an illegal word and a faulting command only raise. -/
theorem faultingCommandHasNoPartialEffect : Obligations.FaultingCommandHasNoPartialEffect := by
  intro s t e hf hfault
  suffices h : SameBlock (takeInput s) t from h.eq
  rcases step_cases e with ⟨_, rfl⟩ | ⟨l, _, rfl⟩ | ⟨w, l, hl, _, rfl⟩ | ⟨w, l, hl, _, rfl⟩ | ⟨w, l, i, hl, _, hex⟩
  · exact absurd hf hfault
  · exact absurd rfl hfault
  · exact takeInput_of_cons hl ▸ raise_sameBlock _ (quiet_sameBlock _)
  · exact takeInput_of_cons hl ▸ raise_sameBlock _ (quiet_sameBlock _)
  · rw [takeInput_of_cons hl]
    exact exec_faulting_sameBlock hex hf hfault

end Sys2Proof.Machine
end

section
/-! PROOFS. Reset, waiting and the host's duties (70_reset_and_hazards.md): what the two resets leave (R190, R191), the
idle step (R192), the configuration (R193), and that a paired stream raises no fault (R198). -/

namespace Sys2Proof.Machine

/-! ## The named reads after RESET (10_state.md R37, last column) -/

@[simp] theorem initialise_dlineAt (s : State) (r : Nat) : (initialise s).dlineAt r = dlineReset s.cfg := rfl
@[simp] theorem initialise_ilineAt (s : State) (r : Nat) : (initialise s).ilineAt r = ilineReset s.cfg := rfl
@[simp] theorem initialise_targetAt (s : State) (j : Nat) : (initialise s).targetAt j = s.cfg.tgtReset := rfl
@[simp] theorem initialise_b1At (s : State) (j : Nat) : (initialise s).b1At j = b1Reset s.cfg := rfl
@[simp] theorem initialise_b2At (s : State) (j : Nat) : (initialise s).b2At j = b2Reset s.cfg := rfl
@[simp] theorem initialise_ctr (s : State) (d : Counter) : (initialise s).ctr d = 0#64 := Counters.get_ofFn _ d

/-! ## The two resets -/

/-- Settles O50: RESET clears the response port and then puts every element at its reset value. -/
theorem resetResult : Obligations.ResetResult := by
  intro s
  exact ⟨initialise (quiet s), exec_reset s, initialise_cur _, initialise_prev _, initialise_dlineAt _,
    initialise_ilineAt _, initialise_targetAt _, initialise_b1At _, initialise_b2At _, initialise_ctr _,
    initialise_status _, initialise_rsp _, initialise_cfg _, initialise_draws _, initialise_inputs _⟩

/-- Settles O8: the hardware reset draws free values for the elements of the block and for nothing stated here. -/
theorem hardwareResetIsNotReady : Obligations.HardwareResetIsNotReady := fun _ _ hs =>
  ⟨_, step_rst hs, hardReset_status _, hardReset_cfg _, hardReset_inputs _, hardReset_rsp _⟩

/-! ## Waiting -/

/-- Where nothing is presented there is nothing to take. -/
theorem takeInput_of_nil {s : State} (hs : s.inputs = []) : takeInput s = s := by
  rw [takeInput, hs, List.tail_nil, ← hs]

/-- Settles O7: the idle step only empties the response port. -/
theorem waitingChangesNothing : Obligations.WaitingChangesNothing := by
  intro s hs
  rw [step_idle hs, takeInput_of_nil hs]
  rfl

/-! ## The configuration and the inputs -/

theorem SameBlock.cfg_inputs {s t : State} (h : SameBlock s t) : t.cfg = s.cfg ∧ t.inputs = s.inputs := by
  obtain ⟨_, _, _, rfl⟩ := h
  exact ⟨rfl, rfl⟩

/-- No command changes the configuration (70_reset_and_hazards.md R193) or what the host has yet to present (log 3). -/
theorem exec_cfg_inputs {i : Instr} {s t : State} (e : exec i s = .next t) :
    t.cfg = s.cfg ∧ t.inputs = s.inputs := by
  rcases exec_acts_or_sameBlock e with rfl | h
  · exact ⟨effectOf_cfg i (quiet s), effectOf_inputs i (quiet s)⟩
  · exact h.cfg_inputs

/-- Settles O11: whatever a step does after it took its input, it keeps the configuration and the rest of the inputs. -/
theorem noStepChangesTheConfiguration : Obligations.NoStepChangesTheConfiguration := by
  intro s t e
  suffices h : t.cfg = (takeInput s).cfg ∧ t.inputs = (takeInput s).inputs from h
  rcases step_cases e with ⟨_, rfl⟩ | ⟨l, hl, rfl⟩ | ⟨w, l, hl, _, rfl⟩ | ⟨w, l, hl, _, rfl⟩ | ⟨w, l, i, hl, _, hex⟩
  · exact ⟨quiet_cfg _, quiet_inputs _⟩
  · exact takeInput_of_cons hl ▸ ⟨hardReset_cfg _, hardReset_inputs _⟩
  · exact takeInput_of_cons hl ▸ (raise_sameBlock _ (quiet_sameBlock _)).cfg_inputs
  · exact takeInput_of_cons hl ▸ (raise_sameBlock _ (quiet_sameBlock _)).cfg_inputs
  · exact takeInput_of_cons hl ▸ exec_cfg_inputs hex

/-! ## Paired streams -/

/-- RESET, which drops a pending RECORD (43_control.md R160), keeps a running block facing a paired stream too. -/
theorem effectOf_keeps_running_and_paired {i : Instr} {l : List Instr} {s : State} (hs : s.Running)
    (hp : paired s.status.armed (i :: l) = true) :
    (effectOf i s).Running ∧ paired (effectOf i s).status.armed l = true := by
  rcases eq_or_ne i .reset with rfl | hreset
  · exact ⟨⟨rfl, rfl⟩, hp⟩
  · exact effectOf_keeps_paired hs hreset hp

/-- The first command of a paired stream is taken and raises nothing, and the rest of the stream is paired from
there. -/
theorem step_keeps_paired {s : State} {i : Instr} {l : List Instr} (hs : s.Running)
    (hp : paired s.status.armed (i :: l) = true) (hin : s.inputs = presented (i :: l)) :
    ∃ t, step s = .next t ∧ t.Running ∧ paired t.status.armed l = true ∧ t.inputs = presented l := by
  have hw := wellFormed_of_paired hp
  obtain ⟨rsp, hexec⟩ := exec_running hw (s := { s with inputs := presented l }) hs
  obtain ⟨hrun, hpaired⟩ := effectOf_keeps_running_and_paired (s := quiet { s with inputs := presented l }) hs hp
  exact ⟨_, (step_encode hw hin).trans hexec, hrun, hpaired, effectOf_inputs i _⟩

/-- Settles O19, by induction on the stream: each command leaves the block running and facing the rest. -/
theorem pairedStreamRaisesNoFault : Obligations.PairedStreamRaisesNoFault := by
  intro s l hs hp hin
  induction l generalizing s with
  | nil => exact ⟨s, run_zero s, hs, hin⟩
  | cons i l ih =>
    obtain ⟨u, hstep, hu, hup, huin⟩ := step_keeps_paired hs hp hin
    obtain ⟨t, hrun, ht⟩ := ih u hu hup huin
    exact ⟨t, (run_succ _ hstep).trans hrun, ht⟩

end Sys2Proof.Machine
end
